-- ==== Sys2Proof/Word.lean ====
section
/-! DEFINITION. The data types the machine computes with: bytes, registers, host addresses and symbol words. -/

namespace Sys2Proof

/-- A stored symbol cell: 8 bits (`SYMBOL_WIDTH`, 00_scope.md R7; 10_state.md R24). -/
abbrev Byte := BitVec 8

/-- A 32-bit register or command word (00_scope.md R7 `DATA_WIDTH`, 30_encoding.md R70). -/
abbrev Word32 := BitVec 32

/-- A host byte address (00_scope.md R7 `ADDR_WIDTH`, 20_memory.md R50). -/
abbrev Addr := BitVec 16

/-- A symbol is an integer in `[0, fieldSize)` (00_scope.md glossary); the rules compute on integers and
store the result, which is below `q <= 256`, in 8 bits (log 12). -/
abbrev Symbol := Nat

/-- A word: a finite sequence of symbols, index 0 first in time and of highest degree (00_scope.md R10). -/
abbrev Word := List Symbol

/-- `zeros(k)`, the word of `k` zero symbols (00_scope.md R10). -/
def zeros (k : Nat) : Word := List.replicate k 0

end Sys2Proof
end

