-- ==== Sys2Proof/Syntax.lean ====
section
/-! DEFINITION. The 13 commands of the opcode map (30_encoding.md R74), one constructor per row. -/

namespace Sys2Proof

/-- A command.  `rd`, `rd2`, `rs1`, `rs2` are word-register indices and `slot` is the 8-bit slot immediate
(30_encoding.md R72); the operand order is the assembler's (R76). -/
inductive Instr where
  | nop
  | configure
  | resetState
  | wadd (rd rs1 rs2 : Nat)
  | wmul (rd rs1 rs2 : Nat)
  | pmul (rd rs1 rs2 : Nat)
  | pdivmod (rd rd2 rs1 rs2 : Nat)
  | scramble (rd rs1 slot : Nat)
  | candidates (rs1 : Nat)
  | select
  | commit (rd : Nat)
  | encode (rd rs1 : Nat)
  | decode (rd rs1 : Nat)
deriving DecidableEq, Repr

end Sys2Proof
end

