-- ==== Sys2Proof/Config.lean ====
section
/-! DEFINITION. The implementation parameters of this hardware (00_scope.md R7) and the three free values the spec leaves open. -/

namespace Sys2Proof

/-- `MAX_LEN` (00_scope.md R7). -/
def Config.maxLen : Nat := 64

/-- `MAX_N`, which is also the number of Scrambler slots (00_scope.md R7). -/
def Config.maxN : Nat := 16

/-- `NWREG` (00_scope.md R7). -/
def Config.nwreg : Nat := 16

/-- `MAX_Q` (00_scope.md R7). -/
def Config.maxQ : Nat := 256

/-- FREE VALUE (log 2): how many host operations can land between the `epoch`-th host write, a `CMD` write, and
the engine's step that executes the command.  It stands for the spec's open `cmd_cycles` (R203). -/
opaque Config.cmdCycles : (epoch : Nat) → Nat

/-- FREE VALUE (log 6): what a host read of a cell that was never written returns (10_state.md R24, U1), for the
cell at an address, with nothing written since the `epoch`-th host write. -/
opaque Config.unwrittenCell : (epoch addr : Nat) → Byte

/-- FREE VALUE (log 7): what a command computes with when it reads a cell that was never written: whatever the cell
holds (60_exceptions.md R177 (a)), for the cell at an address, in a command issued by the `epoch`-th host write.  It is
not tied to what a host read of the cell returns: the spec ties neither to the other. -/
opaque Config.unwrittenOperand : (epoch addr : Nat) → Byte

end Sys2Proof
end

