-- ==== Sys2Proof/WellFormed.lean ====
section
/-! DEFINITION. Which commands are well formed: operands that fit their fields (30_encoding.md R72). -/

namespace Sys2Proof

/-- A word-register index: `W0` to `W15` (10_state.md R22). -/
def isReg (r : Nat) : Bool := r < Config.nwreg

/-- A slot immediate is 8 bits; a value of `A.N` or more is rejected at execution, not here (30_encoding.md R72). -/
def isImm8 (v : Nat) : Bool := v < 256

/-- Every operand fits its field. -/
def Instr.wellFormed : Instr → Bool
  | .nop => true
  | .configure => true
  | .resetState => true
  | .wadd rd rs1 rs2 => isReg rd && isReg rs1 && isReg rs2
  | .wmul rd rs1 rs2 => isReg rd && isReg rs1 && isReg rs2
  | .pmul rd rs1 rs2 => isReg rd && isReg rs1 && isReg rs2
  | .pdivmod rd rd2 rs1 rs2 => isReg rd && isReg rd2 && isReg rs1 && isReg rs2
  | .scramble rd rs1 slot => isReg rd && isReg rs1 && isImm8 slot
  | .candidates rs1 => isReg rs1
  | .select => true
  | .commit rd => isReg rd
  | .encode rd rs1 => isReg rd && isReg rs1
  | .decode rd rs1 => isReg rd && isReg rs1

end Sys2Proof
end

