-- ==== Sys2Proof/Decode.lean ====
section
/-! DEFINITION. The command word: fields, formats, decoder and encoder (30_encoding.md R70 to R76). -/

namespace Sys2Proof

/-- Why a word is no command (30_encoding.md R75), and, for a list of bytes, that it holds no whole word. -/
inductive DecodeError where
  | unknownOpcode (opc : Nat)
  | mustBeZero (opc : Nat)
  | tooShort
deriving DecidableEq, Repr

/-- `v[hi:lo]` read as an unsigned integer (00_scope.md R9). -/
def field (v : Word32) (hi lo : Nat) : Nat := v.toNat / 2 ^ lo % 2 ^ (hi + 1 - lo)

/-- The seven formats (30_encoding.md R73). -/
inductive Format where
  | N | R | Q | S | U | G | D
deriving DecidableEq, Repr

/-- The must-be-zero bit ranges of a format, as the R73 table lists them: `(hi, lo)` inclusive. -/
def Format.mbz : Format → List (Nat × Nat)
  | .N => [(31, 8)]
  | .R => [(31, 20)]
  | .Q => [(31, 24)]
  | .S => [(23, 16)]
  | .U => [(31, 16)]
  | .G => [(31, 16), (11, 8)]
  | .D => [(31, 12)]

/-- No must-be-zero bit of the format is set. -/
def Format.mbzClear (f : Format) (v : Word32) : Bool := f.mbz.all fun r => field v r.1 r.2 == 0

/-- Accept `i` as the meaning of `v` when `v` respects the format's must-be-zero bits (R75). -/
def accept (f : Format) (v : Word32) (i : Instr) : Except DecodeError Instr :=
  if f.mbzClear v then .ok i else .error (.mustBeZero (field v 7 0))

/-- The decoder: the opcode map of 30_encoding.md R74 with the fields of R70. -/
def decode (v : Word32) : Except DecodeError Instr :=
  let rd := field v 11 8
  let rs1 := field v 15 12
  let rs2 := field v 19 16
  let rd2 := field v 23 20
  let imm8 := field v 31 24
  match field v 7 0 with
  | 0x00 => accept .N v .nop
  | 0x01 => accept .N v .configure
  | 0x02 => accept .N v .resetState
  | 0x10 => accept .R v (.wadd rd rs1 rs2)
  | 0x11 => accept .R v (.wmul rd rs1 rs2)
  | 0x12 => accept .R v (.pmul rd rs1 rs2)
  | 0x13 => accept .Q v (.pdivmod rd rd2 rs1 rs2)
  | 0x20 => accept .S v (.scramble rd rs1 imm8)
  | 0x21 => accept .G v (.candidates rs1)
  | 0x22 => accept .N v .select
  | 0x23 => accept .D v (.commit rd)
  | 0x24 => accept .U v (.encode rd rs1)
  | 0x30 => accept .U v (.decode rd rs1)
  | opc => .error (.unknownOpcode opc)

/-- The command word in four bytes on the byte lanes, the least significant byte at the lowest address
(20_memory.md R54). -/
def wordBytes (v : Word32) : List Byte :=
  [v.extractLsb' 0 8, v.extractLsb' 8 8, v.extractLsb' 16 8, v.extractLsb' 24 8]

/-- Decode the command at the front of a list of bytes, with the bytes after it (log 21). -/
def decodeBytes : List Byte → Except DecodeError (Instr × List Byte)
  | b0 :: b1 :: b2 :: b3 :: rest =>
    match decode (b3 ++ b2 ++ b1 ++ b0) with
    | .ok i => .ok (i, rest)
    | .error e => .error e
  | _ => .error .tooShort

/-- The instruction the decoder reads from a word numbered as spec/opcode_table.json numbers its bits. -/
def decodeTableWord (nbits w : Nat) : Option Instr :=
  match decodeBytes (wordBytes (BitVec.ofNat 32 (w % 2 ^ nbits))) with
  | .ok (i, _) => some i
  | .error _ => none

/-- `enc = opc | rd<<8 | rs1<<12 | rs2<<16 | rd2<<20 | slot<<24` (30_encoding.md R76), as a number; the fields
of a well-formed command do not overlap, so the disjunction is the sum. -/
def pack (opc rd rs1 rs2 rd2 slot : Nat) : Word32 :=
  BitVec.ofNat 32 (opc + rd * 2 ^ 8 + rs1 * 2 ^ 12 + rs2 * 2 ^ 16 + rd2 * 2 ^ 20 + slot * 2 ^ 24)

/-- The encoder: the word of a well-formed command (30_encoding.md R74, R76). -/
def encode : Instr → Word32
  | .nop => pack 0x00 0 0 0 0 0
  | .configure => pack 0x01 0 0 0 0 0
  | .resetState => pack 0x02 0 0 0 0 0
  | .wadd rd rs1 rs2 => pack 0x10 rd rs1 rs2 0 0
  | .wmul rd rs1 rs2 => pack 0x11 rd rs1 rs2 0 0
  | .pmul rd rs1 rs2 => pack 0x12 rd rs1 rs2 0 0
  | .pdivmod rd rd2 rs1 rs2 => pack 0x13 rd rs1 rs2 rd2 0
  | .scramble rd rs1 slot => pack 0x20 rd rs1 0 0 slot
  | .candidates rs1 => pack 0x21 0 rs1 0 0 0
  | .select => pack 0x22 0 0 0 0 0
  | .commit rd => pack 0x23 rd 0 0 0 0
  | .encode rd rs1 => pack 0x24 rd rs1 0 0 0
  | .decode rd rs1 => pack 0x30 rd rs1 0 0 0

end Sys2Proof
end

