-- ==== Sys2Proof/Machine/State.lean ====
section
/-! DEFINITION. The state of the machine as the spec gives it (10_state.md), the reasons a step stops, and reset. -/

namespace Sys2Proof.Machine

/-- Why the machine stops with a fault: nothing stops it.  An error is a completion status (60_exceptions.md R171), and
the spec's model fault is a record that a command leaves (`ModelFault`), after which the machine goes on. -/
inductive Fault where
deriving DecidableEq, Repr

/-- The spec's model fault: a command read a symbol cell that nothing has written since reset.  The model records it for
that command and never clears it (10_state.md R24, 60_exceptions.md R177 (a), log 7). -/
structure ModelFault where
  /-- The command word. -/
  cmd : Word32
  /-- The host address of the first such cell that the command read. -/
  cell : Nat
deriving DecidableEq, Repr

/-- Why the model has no step. -/
inductive Refusal where
  /-- Raised by `exec` for a command that has no meaning yet; no arm raises it.  Safe. -/
  | notModelled (mnemonic : String)
  /-- Raised by a host access of another width than 32 bits or at an address that is no multiple of 4
  (20_memory.md R51, 60_exceptions.md R177 (c), log 11).  Safe: the hardware answers with a bus error. -/
  | badAccess
  /-- Raised by a host access other than a `STATUS` read while `BUSY = 1` (70_reset_and_hazards.md R196,
  60_exceptions.md R177 (b)).  Safe: the spec gives the access no meaning. -/
  | accessWhileBusy
deriving DecidableEq, Repr

/-- The errors a command reports (60_exceptions.md R170). -/
inductive ErrCode where
  | augmentingLengthTooSmall
  | augmentingCodewordLengthMismatch
  | divisorLengthTooSmall
  | badFieldSize
  | badSelectionMethod
  | badInputLength
  | badScrambleInput
  | fieldValidity
  | symbolOutOfRange
  | notConfigured
  | illegalCommand
  | badSlot
  | lengthOverflow
  | noCandidates
  | noSelection
  | badSlotCount
  | registerConflict
deriving DecidableEq, Repr

/-- The engine's phase; `BUSY` is 1 in `busy` (10_state.md R39). -/
inductive Phase where
  | idle
  | busy
deriving DecidableEq, Repr

/-- The symbol arrays of the register interface (20_memory.md R52), by the register or slot they belong to. -/
inductive CellArray where
  | divisorStg
  | descRem
  | augStg (s : Nat)
  | wsym (i : Nat)
  | slotCarry (s : Nat)
  | cand (s : Nat)
deriving DecidableEq, Repr

/-- The symbol cells, as `(host address, byte)` pairs with addresses strictly rising (20_memory.md R52, log 8). -/
abbrev Memory := List Host.Cell

/-- The active configuration `A` (10_state.md R30). -/
structure ActiveConfig where
  q : Nat
  n : Nat
  m : Nat
  d : Nat
  N : Nat
  cont : Bool
  metric : Nat
  g : Word
  aug : List Word
deriving DecidableEq, Repr

/-- One operation of the world outside the engine: a host access, one of the two pseudo-instructions that depend
on what they read (30_encoding.md R77), or the reset input (70_reset_and_hazards.md R190). -/
inductive HostOp where
  /-- `MemRead` of a width in bits at a byte address. -/
  | read (width : Nat) (addr : Addr)
  /-- `MemWrite` of a width in bits at a byte address. -/
  | write (width : Nat) (addr : Addr) (val : Word32)
  /-- `wait`: read `STATUS` until its bit 0 is 0. -/
  | wait
  /-- `wget wI`: read `WLEN[I]`, then that many symbol cells. -/
  | wget (i : Nat)
  /-- The reset input. -/
  | reset
deriving DecidableEq, Repr

/-- What a host read returned. -/
structure HostRead where
  addr : Addr
  val : Word32
deriving DecidableEq, Repr

/-- The state of the machine (10_state.md R20), with the host's side of the interface. -/
structure State where
  /-- `BUSY` and the engine phase (R39). -/
  phase : Phase
  /-- `CMDLATCH` (R39). -/
  cmdLatch : Word32
  /-- `W[i].len` (R22, R23). -/
  wlen : Vector Nat 16
  /-- The symbol cells of `W`, `DIVISOR_STG`, `AUG_STG`, `SLOT_CARRY`, `DESC_REM` and `CAND`
  (R24, R29, R32, R33, R35). -/
  mem : Memory
  /-- `CFG_FIELD.FIELD` (R28). -/
  cfgField : BitVec 16
  /-- `CFG_CWLEN.CWLEN` (R28). -/
  cfgCwlen : BitVec 16
  /-- `CFG_AUGLEN.AUGLEN` (R28). -/
  cfgAuglen : BitVec 16
  /-- `CFG_DIVLEN.DIVLEN` (R28). -/
  cfgDivlen : BitVec 16
  /-- `CFG_NAUG.NAUG` (R28). -/
  cfgNaug : BitVec 16
  /-- `CFG_MODE.CONTINUOUS` (R28). -/
  cfgContinuous : Bool
  /-- `CFG_METHOD.ALPHABET` (R28). -/
  cfgAlphabet : BitVec 16
  /-- `CFG_METHOD.METRIC_SEL` (R28). -/
  cfgMetricSel : BitVec 8
  /-- The active configuration `A` (R30). -/
  active : ActiveConfig
  /-- `CFG_VALID` (R31). -/
  cfgValid : Bool
  /-- `RDS`, two's complement (R34). -/
  rds : Word32
  /-- `RDS_OVF`, sticky (R27, R34). -/
  rdsOvf : Bool
  /-- `CAND_VALID` (R35). -/
  candValid : Bool
  /-- `SEL_PENDING` (R36). -/
  selPending : BitVec 4
  /-- `METRIC` (R36). -/
  metric : Word32
  /-- `SEL_VALID` (R36). -/
  selValid : Bool
  /-- `SEL` (R37). -/
  sel : BitVec 4
  /-- `WORDCOUNT` (R37). -/
  wordcount : Word32
  /-- `ERRCODE`, `STATUS[15:8]` (R38). -/
  errcode : Byte
  /-- `ERR`, sticky (R38). -/
  err : Bool
  /-- `ERRINFO` (R38). -/
  errinfo : Word32
  /-- The record of the model faults, newest first, never cleared (60_exceptions.md R177 (a), log 7). -/
  modelFaults : List ModelFault
  /-- MODEL'S OWN: the operations the outside world has still to perform, in issue order (log 1). -/
  host : List HostOp
  /-- MODEL'S OWN: what the host's reads returned, newest first (log 1). -/
  reads : List HostRead
  /-- MODEL'S OWN: how many more host operations may land before the engine's step (log 2). -/
  hostTurns : Nat
  /-- MODEL'S OWN: how many host writes and resets have happened; it indexes the free values (log 2, log 6). -/
  epoch : Nat
deriving DecidableEq, Repr

/-- The active configuration before any CONFIGURE.  The spec calls it meaningless (10_state.md R40); the zeros
are a DESIGN CHOICE (log 5). -/
def ActiveConfig.unset : ActiveConfig :=
  { q := 0, n := 0, m := 0, d := 0, N := 0, cont := false, metric := 0, g := [], aug := [] }

/-- The machine right after reset (10_state.md R40, 70_reset_and_hazards.md R190, R191).  The cells of `W`,
`DIVISOR_STG`, `AUG_STG` and `CAND` are unwritten and those of `SLOT_CARRY` and `DESC_REM` are 0: nothing is
listed.  `cmdLatch` (log 4), `active` (log 5) and the model's own last five fields (log 3) are DESIGN CHOICES. -/
def State.reset : State :=
  { phase := .idle
    cmdLatch := 0
    wlen := Vector.replicate 16 0
    mem := []
    cfgField := 0
    cfgCwlen := 0
    cfgAuglen := 0
    cfgDivlen := 0
    cfgNaug := 0
    cfgContinuous := false
    cfgAlphabet := 0
    cfgMetricSel := 0
    active := ActiveConfig.unset
    cfgValid := false
    rds := 0
    rdsOvf := false
    candValid := false
    selPending := 0
    metric := 0
    selValid := false
    sel := 0
    wordcount := 0
    errcode := 0
    err := false
    errinfo := 0
    modelFaults := []
    host := []
    reads := []
    hostTurns := 0
    epoch := 0 }

end Sys2Proof.Machine
end

