-- ==== Sys2Proof/Machine/Ops.lean ====
section
/-! DEFINITION. The named operations every meaning is built from: the symbol memory, the word registers, the latched
command, and completing a command with success or with an error (60_exceptions.md R171). -/

namespace Sys2Proof.Machine

/-! ### The symbol memory (20_memory.md R52) -/

/-- The host address of cell 0 of a symbol array (20_memory.md R52). -/
def CellArray.base : CellArray → Nat
  | .divisorStg => 0x0100
  | .descRem => 0x0200
  | .augStg s => 0x1000 + 0x100 * s
  | .wsym i => 0x2000 + 0x100 * i
  | .slotCarry s => 0x3000 + 0x100 * s
  | .cand s => 0x4000 + 0x100 * s

/-- The host address of cell `k` of a symbol array (20_memory.md R52). -/
def CellArray.addr (arr : CellArray) (k : Nat) : Nat := arr.base + 4 * k

/-- The address lies in the window of `DESC_REM` or of `SLOT_CARRY` (20_memory.md R52). -/
def isCarryAddr (a : Nat) : Bool := (0x0200 ≤ a && a < 0x0300) || (0x3000 ≤ a && a < 0x4000)

/-- The addresses at which a symbol cell stands (20_memory.md R52). -/
def isCellAddr (a : Nat) : Bool :=
  a % 4 == 0 && ((0x0100 ≤ a && a < 0x0300) || (0x1000 ≤ a && a < 0x5000))

/-- What a cell that the memory does not list holds: 0 for the carries and the Descrambler remainder, which reset
and RESET_STATE clear (10_state.md R32, R33), and nothing, its initialisation bit clear, for every other cell
(R24, R191). -/
def Memory.unlisted (a : Nat) : Option Byte := if isCarryAddr a then some 0 else none

/-- The listed byte at an address. -/
def Memory.lookup : Memory → Nat → Option Byte
  | [], _ => none
  | c :: m, a => if c.1 = a then some c.2 else Memory.lookup m a

/-- Read one cell: its byte, or `none` when it has never been written (10_state.md R24). -/
def Memory.read (m : Memory) (a : Nat) : Option Byte :=
  match Memory.lookup m a with
  | some b => some b
  | none => Memory.unlisted a

/-- List a byte at its place in the rising order of addresses. -/
def Memory.insert (a : Nat) (b : Byte) : Memory → Memory
  | [] => [(a, b)]
  | c :: m =>
    if a < c.1 then (a, b) :: c :: m
    else if a = c.1 then (a, b) :: m
    else c :: Memory.insert a b m

/-- Write one cell, keeping the canonical form: a byte an unlisted cell holds anyway is not listed. -/
def Memory.write (m : Memory) (a : Nat) (b : Byte) : Memory :=
  if Memory.unlisted a = some b then m.filter fun c => c.1 != a else Memory.insert a b m

/-- Set every cell of `SLOT_CARRY` and `DESC_REM` to 0 (44_control.md R158). -/
def Memory.clearCarries (m : Memory) : Memory := m.filter fun c => !isCarryAddr c.1

/-- The canonical form: addresses strictly rising, and no entry equal to what an unlisted address reads as. -/
abbrev Memory.wf (m : Memory) : Prop :=
  m.Pairwise (fun x y => x.1 < y.1) ∧ ∀ c ∈ m, Memory.unlisted c.1 ≠ some c.2

/-- Write a word to the cells from address `a` on, one symbol every four bytes (20_memory.md R54). -/
def storeWord (m : Memory) (a : Nat) : Word → Memory
  | [] => m
  | x :: xs => storeWord (m.write a (BitVec.ofNat 8 x)) (a + 4) xs

/-! ### The word registers (10_state.md R22) -/

/-- `W[i].len`. -/
def State.len (s : State) (i : Nat) : Nat := s.wlen[i]?.getD 0

/-- `W[rd] <- w`: the new length and the first `len(w)` cells; later cells keep their contents
(00_scope.md R12, 40_word.md R101). -/
def State.setReg (s : State) (rd : Nat) (w : Word) : State :=
  { s with
    mem := storeWord s.mem (CellArray.wsym rd).base w
    wlen := s.wlen.setIfInBounds rd w.length }

/-- Write a word to the cells of an array that has no length register. -/
def State.setCells (s : State) (arr : CellArray) (w : Word) : State :=
  { s with mem := storeWord s.mem arr.base w }

/-! ### The latched command -/

/-- Read the latched command word (30_encoding.md R71). -/
def State.fetched (s : State) : Except DecodeError Instr := decode s.cmdLatch

/-! ### How a command ends -/

/-- A check or a rule: the first never-written cell it reads, if it reads one (60_exceptions.md R177 (a)), and its
result, or the error it raises before its writes (00_scope.md R12). -/
structure Checked (α : Type) where
  unwritten : Option Nat
  result : Except ErrCode α

/-- A rule that reads no cell and ends with a result. -/
def done {α : Type} (x : α) : Checked α := ⟨none, .ok x⟩

/-- `raise Err(c)`. -/
def raise {α : Type} (c : ErrCode) : Checked α := ⟨none, .error c⟩

/-- One check after another: an error ends the rule, and the earliest never-written cell counts. -/
def Checked.andThen {α β : Type} (x : Checked α) (f : α → Checked β) : Checked β :=
  match x.result with
  | .ok a =>
    match f a with
    | ⟨u, r⟩ => ⟨x.unwritten.or u, r⟩
  | .error c => ⟨x.unwritten, .error c⟩

/-- The code of an error in `STATUS.ERRCODE` (60_exceptions.md R170). -/
def ErrCode.code : ErrCode → Byte
  | .augmentingLengthTooSmall => 0x01
  | .augmentingCodewordLengthMismatch => 0x02
  | .divisorLengthTooSmall => 0x03
  | .badFieldSize => 0x04
  | .badSelectionMethod => 0x05
  | .badInputLength => 0x06
  | .badScrambleInput => 0x07
  | .fieldValidity => 0x08
  | .symbolOutOfRange => 0x09
  | .notConfigured => 0x0A
  | .illegalCommand => 0x0B
  | .badSlot => 0x0C
  | .lengthOverflow => 0x0D
  | .noCandidates => 0x0E
  | .noSelection => 0x0F
  | .badSlotCount => 0x10
  | .registerConflict => 0x11

/-- TAKING AN ERROR, the error protocol: `ERRCODE`, `ERR` and `ERRINFO` are written, the engine returns to `Idle`,
and no other state changes (60_exceptions.md R171).  There is no return from an error (R175). -/
def State.raiseErr (s : State) (c : ErrCode) : State :=
  { s with errcode := c.code, err := true, errinfo := s.cmdLatch, phase := .idle }

/-- The successful end of a command: `ERRCODE <- 0` and the engine returns to `Idle` (30_encoding.md R71). -/
def State.succeed (s : State) : State := { s with errcode := 0, phase := .idle }

/-- Record the model fault of a command that read a never-written cell (60_exceptions.md R177 (a), log 7). -/
def State.recordFault (s : State) (cell : Option Nat) : State :=
  match cell with
  | none => s
  | some a => { s with modelFaults := ⟨s.cmdLatch, a⟩ :: s.modelFaults }

/-- End the command that began in `s` with the outcome of its rule (30_encoding.md R71).  DESIGN CHOICE (log 26): a command
that has recorded a model fault ends like any other and writes ERRCODE as its rule says; 60_exceptions.md R177's 'None of
the three changes `ERRCODE`' is read of the fault itself, which has no code. -/
def complete (s : State) (r : Checked State) : Host.Outcome State Fault Refusal :=
  match r.result with
  | .ok t => .next (t.succeed.recordFault r.unwritten)
  | .error c => .next ((s.raiseErr c).recordFault r.unwritten)

/-- Every command but NOP, CONFIGURE and RESET_STATE fails with `NotConfigured` while `CFG_VALID = 0`
(30_encoding.md R71, 10_state.md R31). -/
def configured (s : State) (r : Checked State) : Checked State :=
  if s.cfgValid then r else raise .notConfigured

/-- A latched word that is no command raises `IllegalCommand` (30_encoding.md R71, R75). -/
def illegal (s : State) : Host.Outcome State Fault Refusal := complete s (raise .illegalCommand)

end Sys2Proof.Machine
end

