-- ==== Sys2Proof/Machine/Poly.lean ====
section
/-! DEFINITION. Symbol arithmetic modulo `q` (00_scope.md R11, R13), the polynomial product and division of the
Word unit (40_word.md R102, R103), and the scrambling and descrambling functions built on them
(41_scrambler.md R121, 43_descrambler.md R145). -/

namespace Sys2Proof.Machine

/-- `addq` (00_scope.md R11). -/
def addq (q a b : Nat) : Nat := (a + b) % q

/-- `subq`: `(a - b) mod q` on integers, the result in `[0, q)` (00_scope.md R11). -/
def subq (q a b : Nat) : Nat := (((a : Int) - (b : Int)) % (q : Int)).toNat

/-- `negq` (00_scope.md R11). -/
def negq (q a : Nat) : Nat := (q - a) % q

/-- `mulq` (00_scope.md R11). -/
def mulq (q a b : Nat) : Nat := (a * b) % q

/-- `unit_q(a)`: `gcd(a, q) = 1` (00_scope.md R11, 90_conflicts.md C1). -/
def unitq (q a : Nat) : Bool := Nat.gcd a q == 1

/-- `inv_q(a)`: the `b` in `[1, q)` with `mulq(a, b) = 1` (00_scope.md R11).  Where there is none it is not
defined; no rule then uses it, and this answers 0 (log 22). -/
def invq (q a : Nat) : Nat := ((List.range q).find? fun b => 1 ≤ b && mulq q a b == 1).getD 0

/-- `p` is prime, by trial division. -/
def isPrime (p : Nat) : Bool := 2 ≤ p && (List.range p).all fun e => e < 2 || p % e != 0

/-- `is_prime_power(q)`: `q = p^k` for a prime `p` and `k >= 1` (00_scope.md R13).  Both are at most `q`. -/
def isPrimePower (q : Nat) : Bool :=
  (List.range (q + 1)).any fun p => isPrime p && (List.range (q + 1)).any fun k => 1 ≤ k && p ^ k == q

/-- `PMULF(a, b)`: the full polynomial product, every coefficient reduced modulo `q` once (40_word.md R102). -/
def pmulf (q : Nat) (a b : Word) : Word :=
  (List.range (a.length + b.length - 1)).map fun k =>
    ((List.range (k + 1)).map fun i => a.getD i 0 * b.getD (k - i) 0).sum % q

/-- The inner loop of `DIVMODF`: subtract `t * b` from `work` at positions `k..k+len(b)` (40_word.md R103). -/
def subtractAt (q : Nat) (work : Word) (k t : Nat) (b : Word) : Word :=
  (List.range b.length).foldl
    (fun w j => w.set (k + j) (subq q (w.getD (k + j) 0) (mulq q t (b.getD j 0)))) work

/-- One turn `k` of the loop of `DIVMODF` on `(work, Q)` (40_word.md R103). -/
def divTurn (q : Nat) (b : Word) (st : Word × Word) (k : Nat) : Word × Word :=
  let t := mulq q (st.1.getD k 0) (invq q (b.getD 0 0))
  (subtractAt q st.1 k t b, st.2 ++ [t])

/-- `DIVMODF(a, b)`: quotient and remainder, the remainder of length `len(b) - 1` (40_word.md R103). -/
def divmodf (q : Nat) (a b : Word) : Word × Word :=
  let ql := a.length + 1 - b.length
  let work := zeros (b.length - 1 - a.length) ++ a
  let st := (List.range ql).foldl (divTurn q b) (work, [])
  (st.2, st.1.drop (st.1.length - (b.length - 1)))

/-- Add a carry symbol by symbol to the first positions of a word: the loop over `0..d-1` of `SCR` and `DSC`
(41_scrambler.md R121, 43_descrambler.md R145). -/
def foldCarry (q : Nat) : Word → Word → Word
  | f :: fs, t :: ts => addq q f t :: foldCarry q fs ts
  | fs, _ => fs

/-- `SCR(u, T)`: the codeword and the next carry (41_scrambler.md R121). -/
def scr (q n d : Nat) (cont : Bool) (g u t : Word) : Word × Word :=
  if cont then
    let f := foldCarry q (pmulf q u g) t
    (f.take n, (f.drop n).take (d - 1))
  else
    ((pmulf q u g).take n, t)

/-- `DSC(c, R)`: the payload and the next remainder (43_descrambler.md R145). -/
def dsc (q n m d : Nat) (cont : Bool) (g c r : Word) : Word × Word :=
  let e := c ++ zeros (d - 1)
  if cont then
    let qr := divmodf q (foldCarry q e r) g
    ((qr.1.take n).drop m, qr.2)
  else
    let qr := divmodf q e g
    ((qr.1.take n).drop m, r)

/-- `v(x) = 2x - (q - 1)`, the weight of a symbol (42_analyzer.md R130). -/
def weight (q : Nat) (x : Symbol) : Int := 2 * (x : Int) - ((q : Int) - 1)

/-- `SUMV(c)`, the sum of the weights of a word (42_analyzer.md R130). -/
def sumv (q : Nat) (c : Word) : Int := (c.map (weight q)).sum

/-- The loop of SELECT over the metrics of the candidates from index `s` on: a later candidate wins only when it
is strictly lower (42_analyzer.md R132). -/
def arbitrate (best bestm s : Nat) : List Nat → Nat × Nat
  | [] => (best, bestm)
  | x :: xs => if x < bestm then arbitrate s x (s + 1) xs else arbitrate best bestm (s + 1) xs

end Sys2Proof.Machine
end

