-- ==== Sys2Proof/Machine/Operands.lean ====
section
/-! DEFINITION. How a rule reads its operands: word registers, staging cells, carries and candidates
(40_word.md R100, 41_scrambler.md, 44_control.md R156). -/

namespace Sys2Proof.Machine

/-- The byte a command computes with when it reads a cell: what the cell holds, and a free value in a cell that was never
written (10_state.md R24, 60_exceptions.md R177 (a), log 7). -/
def State.seen (s : State) (a : Nat) : Byte := (s.mem.read a).getD (Config.unwrittenOperand s.epoch a)

/-- A command reads one cell; a cell that was never written is the model fault (60_exceptions.md R177 (a)). -/
def State.readCell (s : State) (a : Nat) : Checked Byte :=
  ⟨if s.mem.read a = none then some a else none, .ok (s.seen a)⟩

/-- `check_syms` on the `k` cells from address `a` on, in index order: a symbol `>= q` raises `SymbolOutOfRange`, and
no later cell is read (40_word.md R100, 90_conflicts.md C10). -/
def checkSyms (q : Nat) (s : State) (a : Nat) : Nat → Checked Word
  | 0 => done []
  | k + 1 =>
    (s.readCell a).andThen fun b =>
      if b.toNat < q then (checkSyms q s (a + 4) k).andThen fun w => done (b.toNat :: w)
      else raise .symbolOutOfRange

/-- The word of the `k` cells from address `a` on, read without a range check: a candidate (42_analyzer.md R132,
R133, log 13). -/
def loadCells (s : State) (a : Nat) : Nat → Checked Word
  | 0 => done []
  | k + 1 => (s.readCell a).andThen fun b => (loadCells s (a + 4) k).andThen fun w => done (b.toNat :: w)

/-- The word of the first `k` cells of a carry, all of which always hold a value (10_state.md R32, R33). -/
def loadCarry (m : Memory) (arr : CellArray) (k : Nat) : Word :=
  (List.range k).map fun j => ((m.read (arr.addr j)).getD 0).toNat

/-- Collect the results of a check over a list of indices, in order, ending at the first that raises an error. -/
def gather {α : Type} (f : Nat → Checked α) : List Nat → Checked (List α)
  | [] => done []
  | i :: is => (f i).andThen fun x => (gather f is).andThen fun xs => done (x :: xs)

/-- `opnd(i)` with `check_syms`: the checked value of a source register (40_word.md R100). -/
def State.operand (s : State) (i : Nat) : Checked Word :=
  checkSyms s.active.q s (CellArray.wsym i).base (s.len i)

/-- `A.aug[slot]` (10_state.md R30); a slot the configuration does not hold is the empty word, which no rule
reads (log 23). -/
def State.augWord (s : State) (slot : Nat) : Word := s.active.aug.getD slot []

/-- `SLOT_CARRY[slot]`, a word of `A.d - 1` symbols (10_state.md R32). -/
def State.carry (s : State) (slot : Nat) : Word := loadCarry s.mem (.slotCarry slot) (s.active.d - 1)

/-- `DESC_REM`, a word of `A.d - 1` symbols (10_state.md R33). -/
def State.descRem (s : State) : Word := loadCarry s.mem .descRem (s.active.d - 1)

/-- `CAND[slot]`, a word of `A.n` symbols (10_state.md R35). -/
def State.candidate (s : State) (slot : Nat) : Checked Word :=
  loadCells s (CellArray.cand slot).base s.active.n

/-- `SCR(A.aug[slot] ++ p, SLOT_CARRY[slot])` (41_scrambler.md R120, R121, R122, R123). -/
def State.scramble (s : State) (p : Word) (slot : Nat) : Word × Word :=
  scr s.active.q s.active.n s.active.d s.active.cont s.active.g (s.augWord slot ++ p) (s.carry slot)

/-- `DSC(c, DESC_REM)` (43_descrambler.md R145, R146). -/
def State.descramble (s : State) (c : Word) : Word × Word :=
  dsc s.active.q s.active.n s.active.m s.active.d s.active.cont s.active.g c s.descRem

/-- `metric(c) = |RDS + SUMV(c)|`, exact, `RDS` read as signed (42_analyzer.md R130). -/
def State.metricOf (s : State) (c : Word) : Nat := (s.rds.toInt + sumv s.active.q c).natAbs

end Sys2Proof.Machine
end

