-- ==== Sys2Proof/Machine/Flags.lean ====
section
/-! DEFINITION. `STATUS` and its bits (10_state.md R27), and the flag a command can set, `RDS_OVF`
(42_analyzer.md R131). -/

namespace Sys2Proof.Machine

/-- `BUSY` (10_state.md R39). -/
def State.busy (s : State) : Bool := s.phase == .busy

/-- `STATUS.CONT`: `A.cont` when `CFG_VALID = 1`, else 0 (10_state.md R27). -/
def State.contBit (s : State) : Bool := s.cfgValid && s.active.cont

/-- `STATUS`, bit 31 down to bit 0 (10_state.md R27). -/
def State.status (s : State) : Word32 :=
  (0#16 ++ s.errcode ++ 0#1 ++ BitVec.ofBool s.contBit ++ BitVec.ofBool s.err ++ BitVec.ofBool s.rdsOvf
    ++ BitVec.ofBool s.selValid ++ BitVec.ofBool s.candValid ++ BitVec.ofBool s.cfgValid
    ++ BitVec.ofBool s.busy : BitVec 32)

/-- A host write of `v` to `STATUS`: bits 4 and 5 clear `RDS_OVF` and `ERR`, every other bit is ignored
(10_state.md R27). -/
def State.clearSticky (s : State) (v : Word32) : State :=
  { s with
    rdsOvf := s.rdsOvf && !v.getLsbD 4
    err := s.err && !v.getLsbD 5 }

/-- The `RDS` update on commit of codeword `c`: saturating, with the sticky `RDS_OVF` (42_analyzer.md R131). -/
def State.updateRds (s : State) (c : Word) : State :=
  let x := s.rds.toInt + sumv s.active.q c
  if x > 2 ^ 31 - 1 then { s with rds := BitVec.ofInt 32 (2 ^ 31 - 1), rdsOvf := true }
  else if x < -(2 ^ 31) then { s with rds := BitVec.ofInt 32 (-(2 ^ 31)), rdsOvf := true }
  else { s with rds := BitVec.ofInt 32 x }

end Sys2Proof.Machine
end

