-- ==== Sys2Proof/Machine/ScramblerFamily.lean ====
section
/-! DEFINITION. The scrambler array: SCRAMBLE and CANDIDATES (41_scrambler.md). -/

namespace Sys2Proof.Machine

/-- The checked payload of SCRAMBLE, CANDIDATES and ENCODE: its length must be `n - m` (41_scrambler.md R122, R123). -/
def payload (rs1 : Nat) (s : State) : Checked Word :=
  if s.len rs1 ≠ s.active.n - s.active.m then raise .badInputLength else s.operand rs1

/-- The rule of SCRAMBLE: one slot; only its own carry is written, and only in continuous mode
(41_scrambler.md R122). -/
def scrambleRule (rd rs1 slot : Nat) (s : State) : Checked State :=
  if slot ≥ s.active.N then raise .badSlot
  else
    (payload rs1 s).andThen fun p =>
    let ct := s.scramble p slot
    let t := s.setReg rd ct.1
    done (if s.active.cont then t.setCells (.slotCarry slot) ct.2 else t)

/-- SCRAMBLE (41_scrambler.md R122). -/
def execScramble (rd rs1 slot : Nat) (s : State) : Host.Outcome State Fault Refusal :=
  complete s (configured s (scrambleRule rd rs1 slot s))

/-- Write the candidates and, in continuous mode, the new carries of the slots from `slot` on
(41_scrambler.md R123). -/
def storeCandidates (slot : Nat) (s : State) : List (Word × Word) → State
  | [] => s
  | ct :: rest =>
    let t := s.setCells (.cand slot) ct.1
    storeCandidates (slot + 1) (if s.active.cont then t.setCells (.slotCarry slot) ct.2 else t) rest

/-- The rule of CANDIDATES: every slot runs on the same payload from its own old carry, then all results are
written (41_scrambler.md R123). -/
def candidatesRule (rs1 : Nat) (s : State) : Checked State :=
  (payload rs1 s).andThen fun p =>
  let results := (List.range s.active.N).map (s.scramble p)
  done { storeCandidates 0 s results with candValid := true, selValid := false }

/-- CANDIDATES (41_scrambler.md R123). -/
def execCandidates (rs1 : Nat) (s : State) : Host.Outcome State Fault Refusal :=
  complete s (configured s (candidatesRule rs1 s))

end Sys2Proof.Machine
end

