-- ==== Sys2Proof/Machine/AnalyzerFamily.lean ====
section
/-! DEFINITION. The Analyzer and the GuidedScrambler: SELECT, COMMIT, ENCODE (42_analyzer.md). -/

namespace Sys2Proof.Machine

/-- The metric of the pending candidate of a slot (42_analyzer.md R130). -/
def State.candidateMetric (s : State) (slot : Nat) : Checked Nat :=
  (s.candidate slot).andThen fun c => done (s.metricOf c)

/-- The rule of SELECT: the lowest metric wins, the lowest index among equals (42_analyzer.md R132). -/
def selectRule (s : State) : Checked State :=
  if s.candValid then
    (s.candidateMetric 0).andThen fun m0 =>
    (gather s.candidateMetric (List.range' 1 (s.active.N - 1))).andThen fun ms =>
    let best := arbitrate 0 m0 1 ms
    done { s with
      selPending := BitVec.ofNat 4 best.1
      metric := BitVec.ofNat 32 best.2
      selValid := true }
  else raise .noCandidates

/-- SELECT (42_analyzer.md R132). -/
def execSelect (s : State) : Host.Outcome State Fault Refusal :=
  complete s (configured s (selectRule s))

/-- The rule of COMMIT: emit the winner and advance the Analyzer (42_analyzer.md R133). -/
def commitRule (rd : Nat) (s : State) : Checked State :=
  if s.selValid then
    (s.candidate s.selPending.toNat).andThen fun c =>
    let t := (s.setReg rd c).updateRds c
    done { t with
      sel := s.selPending
      wordcount := s.wordcount + 1
      candValid := false
      selValid := false }
  else raise .noSelection

/-- COMMIT (42_analyzer.md R133). -/
def execCommit (rd : Nat) (s : State) : Host.Outcome State Fault Refusal :=
  complete s (configured s (commitRule rd s))

/-- The rule of ENCODE: CANDIDATES, SELECT and COMMIT inside one step (42_analyzer.md R134). -/
def encodeRule (rd rs1 : Nat) (s : State) : Checked State :=
  (candidatesRule rs1 s).andThen fun s1 => (selectRule s1).andThen fun s2 => commitRule rd s2

/-- ENCODE (42_analyzer.md R134). -/
def execEncode (rd rs1 : Nat) (s : State) : Host.Outcome State Fault Refusal :=
  complete s (configured s (encodeRule rd rs1 s))

end Sys2Proof.Machine
end

