-- ==== Sys2Proof/Machine/ControlFamily.lean ====
section
/-! DEFINITION. The control commands: NOP, CONFIGURE, RESET_STATE (44_control.md). -/

namespace Sys2Proof.Machine

/-- NOP: no operation; `ERRCODE` becomes 0 (44_control.md R159). -/
def execNop (s : State) : Host.Outcome State Fault Refusal := complete s (done s)

/-- The running-state reset: carries, Descrambler remainder, Analyzer and selection state (44_control.md R158). -/
def State.resetRunning (s : State) : State :=
  { s with
    mem := s.mem.clearCarries
    rds := 0
    candValid := false
    selValid := false
    selPending := 0
    metric := 0
    sel := 0
    wordcount := 0 }

/-- RESET_STATE (44_control.md R158). -/
def execResetState (s : State) : Host.Outcome State Fault Refusal := complete s (done s.resetRunning)

/-- The checks of CONFIGURE on the staged numbers, in their order, before any cell is read
(44_control.md R156, 60_exceptions.md R172). -/
def configureNumbers (q n m d numAug alpha msel : Nat) : Checked Unit :=
  if m < 1 then raise .augmentingLengthTooSmall
  else if n ≤ m then raise .augmentingCodewordLengthMismatch
  else if d < 2 then raise .divisorLengthTooSmall
  else if q < 2 ∨ q > Config.maxQ ∨ isPrimePower q = false then raise .badFieldSize
  else if alpha ≠ q ∨ msel ≠ 0 then raise .badSelectionMethod
  else if n > Config.maxLen ∨ d > Config.maxLen then raise .lengthOverflow
  else if numAug < 1 ∨ numAug > Config.maxN then raise .badSlotCount
  else done ()

/-- Latch a checked configuration: `A` and `CFG_VALID` (44_control.md R156). -/
def State.latchConfig (s : State) (g : Word) (aug : List Word) : State :=
  { s with
    active :=
      { q := s.cfgField.toNat
        n := s.cfgCwlen.toNat
        m := s.cfgAuglen.toNat
        d := s.cfgDivlen.toNat
        N := s.cfgNaug.toNat
        cont := s.cfgContinuous
        metric := s.cfgMetricSel.toNat
        g := g
        aug := aug }
    cfgValid := true }

/-- The rule of CONFIGURE: every check first, divisor cells before augmenting cells, then latch and reset
(44_control.md R156, R157). -/
def configureRule (s : State) : Checked State :=
  let q := s.cfgField.toNat
  (configureNumbers q s.cfgCwlen.toNat s.cfgAuglen.toNat s.cfgDivlen.toNat s.cfgNaug.toNat
    s.cfgAlphabet.toNat s.cfgMetricSel.toNat).andThen fun _ =>
  (checkSyms q s CellArray.divisorStg.base s.cfgDivlen.toNat).andThen fun g =>
  (gather (fun slot => checkSyms q s (CellArray.augStg slot).base s.cfgAuglen.toNat)
    (List.range s.cfgNaug.toNat)).andThen fun aug =>
  done (s.latchConfig g aug).resetRunning

/-- CONFIGURE (44_control.md R156). -/
def execConfigure (s : State) : Host.Outcome State Fault Refusal := complete s (configureRule s)

end Sys2Proof.Machine
end

