-- ==== Sys2Proof/Machine/DescramblerFamily.lean ====
section
/-! DEFINITION. The Descrambler: DECODE (43_descrambler.md). -/

namespace Sys2Proof.Machine

/-- The rule of DECODE (43_descrambler.md R146): length, symbols, then the leading coefficient of `g`. -/
def decodeRule (rd rs1 : Nat) (s : State) : Checked State :=
  if s.len rs1 ≠ s.active.n then raise .badScrambleInput
  else
    (s.operand rs1).andThen fun c =>
    if unitq s.active.q (s.active.g.getD 0 0) then
      let pr := s.descramble c
      let t := s.setReg rd pr.1
      done (if s.active.cont then t.setCells .descRem pr.2 else t)
    else raise .fieldValidity

/-- DECODE (43_descrambler.md R146). -/
def execDecode (rd rs1 : Nat) (s : State) : Host.Outcome State Fault Refusal :=
  complete s (configured s (decodeRule rd rs1 s))

end Sys2Proof.Machine
end

