-- ==== Sys2Proof/Machine/WordFamily.lean ====
section
/-! DEFINITION. The Word family: WADD, WMUL, PMUL, PDIVMOD (40_word.md). -/

namespace Sys2Proof.Machine

/-- The elementwise rule of WADD and WMUL over one symbol operation (40_word.md R104, R105): lengths first, then the
symbols of `rs1`, then those of `rs2`. -/
def elementwise (op : Nat → Nat → Nat → Nat) (rd rs1 rs2 : Nat) (s : State) : Checked State :=
  if s.len rs1 ≠ s.len rs2 then raise .badInputLength
  else
    (s.operand rs1).andThen fun a =>
    (s.operand rs2).andThen fun b =>
    done (s.setReg rd (List.zipWith (op s.active.q) a b))

/-- WADD (40_word.md R104). -/
def execWadd (rd rs1 rs2 : Nat) (s : State) : Host.Outcome State Fault Refusal :=
  complete s (configured s (elementwise addq rd rs1 rs2 s))

/-- WMUL (40_word.md R105). -/
def execWmul (rd rs1 rs2 : Nat) (s : State) : Host.Outcome State Fault Refusal :=
  complete s (configured s (elementwise mulq rd rs1 rs2 s))

/-- The rule of PMUL (40_word.md R106). -/
def pmulRule (rd rs1 rs2 : Nat) (s : State) : Checked State :=
  if s.len rs1 = 0 ∨ s.len rs2 = 0 then raise .badInputLength
  else if s.len rs1 + s.len rs2 - 1 > Config.maxLen then raise .lengthOverflow
  else
    (s.operand rs1).andThen fun a =>
    (s.operand rs2).andThen fun b =>
    done (s.setReg rd (pmulf s.active.q a b))

/-- PMUL (40_word.md R106). -/
def execPmul (rd rs1 rs2 : Nat) (s : State) : Host.Outcome State Fault Refusal :=
  complete s (configured s (pmulRule rd rs1 rs2 s))

/-- The rule of PDIVMOD: the quotient to `rd`, the remainder to `rd2` (40_word.md R107). -/
def pdivmodRule (rd rd2 rs1 rs2 : Nat) (s : State) : Checked State :=
  if rd = rd2 then raise .registerConflict
  else if s.len rs2 = 0 then raise .badInputLength
  else
    (s.operand rs1).andThen fun a =>
    (s.operand rs2).andThen fun b =>
    if unitq s.active.q (b.getD 0 0) then
      let qr := divmodf s.active.q a b
      done ((s.setReg rd qr.1).setReg rd2 qr.2)
    else raise .fieldValidity

/-- PDIVMOD (40_word.md R107). -/
def execPdivmod (rd rd2 rs1 rs2 : Nat) (s : State) : Host.Outcome State Fault Refusal :=
  complete s (configured s (pdivmodRule rd rd2 rs1 rs2 s))

end Sys2Proof.Machine
end

