-- ==== Sys2Proof/Machine/Dispatch.lean ====
section
/-! DEFINITION. One arm per command: the rule of its opcode (30_encoding.md R71, R74). -/

namespace Sys2Proof.Machine

def exec (i : Instr) (s : State) : Host.Outcome State Fault Refusal :=
  match i with
  | .nop => Sys2Proof.Machine.execNop s
  | .configure => Sys2Proof.Machine.execConfigure s
  | .resetState => Sys2Proof.Machine.execResetState s
  | .wadd rd rs1 rs2 => Sys2Proof.Machine.execWadd rd rs1 rs2 s
  | .wmul rd rs1 rs2 => Sys2Proof.Machine.execWmul rd rs1 rs2 s
  | .pmul rd rs1 rs2 => Sys2Proof.Machine.execPmul rd rs1 rs2 s
  | .pdivmod rd rd2 rs1 rs2 => Sys2Proof.Machine.execPdivmod rd rd2 rs1 rs2 s
  | .scramble rd rs1 slot => Sys2Proof.Machine.execScramble rd rs1 slot s
  | .candidates rs1 => Sys2Proof.Machine.execCandidates rs1 s
  | .select => Sys2Proof.Machine.execSelect s
  | .commit rd => Sys2Proof.Machine.execCommit rd s
  | .encode rd rs1 => Sys2Proof.Machine.execEncode rd rs1 s
  | .decode rd rs1 => Sys2Proof.Machine.execDecode rd rs1 s

end Sys2Proof.Machine
end

