-- ==== Sys2Proof/Machine/HostInterface.lean ====
section
/-! DEFINITION. The host register interface: the address map, host reads and writes, the host's operations and the
reset input (20_memory.md, 30_encoding.md R77, 70_reset_and_hazards.md R190). -/

namespace Sys2Proof.Machine

/-! ### The address map (20_memory.md R52) -/

/-- What stands at a host address. -/
inductive Loc where
  | id | status | cmd | errinfo | sel | selPending | metric | rds | wordcount | params
  | cfgField | cfgCwlen | cfgAuglen | cfgDivlen | cfgNaug | cfgMode | cfgMethod
  | wlen (i : Nat)
  | cell (arr : CellArray) (k : Nat)
  | reserved
deriving DecidableEq, Repr

/-- The registers below `0x0080` (20_memory.md R52). -/
def regLoc : Nat → Loc
  | 0x0000 => .id
  | 0x0004 => .status
  | 0x0008 => .cmd
  | 0x000C => .errinfo
  | 0x0010 => .sel
  | 0x0014 => .selPending
  | 0x0018 => .metric
  | 0x001C => .rds
  | 0x0020 => .wordcount
  | 0x0024 => .params
  | 0x0040 => .cfgField
  | 0x0044 => .cfgCwlen
  | 0x0048 => .cfgAuglen
  | 0x004C => .cfgDivlen
  | 0x0050 => .cfgNaug
  | 0x0054 => .cfgMode
  | 0x0058 => .cfgMethod
  | _ => .reserved

/-- The address map, for an address that is a multiple of 4 (20_memory.md R52, R53). -/
def locOf (a : Nat) : Loc :=
  if a < 0x0080 then regLoc a
  else if a < 0x00C0 then .wlen ((a - 0x0080) / 4)
  else if a < 0x0100 then .reserved
  else if a < 0x0200 then .cell .divisorStg ((a - 0x0100) / 4)
  else if a < 0x0300 then .cell .descRem ((a - 0x0200) / 4)
  else if a < 0x1000 then .reserved
  else if a < 0x2000 then .cell (.augStg ((a - 0x1000) / 0x100)) (a % 0x100 / 4)
  else if a < 0x3000 then .cell (.wsym ((a - 0x2000) / 0x100)) (a % 0x100 / 4)
  else if a < 0x4000 then .cell (.slotCarry ((a - 0x3000) / 0x100)) (a % 0x100 / 4)
  else if a < 0x5000 then .cell (.cand ((a - 0x4000) / 0x100)) (a % 0x100 / 4)
  else .reserved

/-- Can the host write the cells of the array (20_memory.md R52)? -/
def CellArray.hostWritable : CellArray → Bool
  | .divisorStg => true
  | .augStg _ => true
  | .wsym _ => true
  | .descRem => false
  | .slotCarry _ => false
  | .cand _ => false

/-! ### Host reads and writes -/

/-- What the host reads in a symbol cell: a carry or remainder cell at index `A.d - 1` or above, and index 63,
reads 0 (10_state.md R32, R33, 20_memory.md R52, log 14); a cell that was never written reads as any byte, a free
value (R24, log 6). -/
def State.hostCell (s : State) (arr : CellArray) (k : Nat) : Byte :=
  match arr with
  | .descRem => if k ≥ s.active.d - 1 ∨ k = 63 then 0 else (s.mem.read (CellArray.descRem.addr k)).getD 0
  | .slotCarry slot =>
    if k ≥ s.active.d - 1 ∨ k = 63 then 0 else (s.mem.read ((CellArray.slotCarry slot).addr k)).getD 0
  | arr => (s.mem.read (arr.addr k)).getD (Config.unwrittenCell s.epoch (arr.addr k))

/-- The 32-bit value of a location (20_memory.md R52, R53, R54). -/
def State.readLoc (s : State) : Loc → Word32
  | .id => 0x47534531
  | .status => s.status
  | .cmd => 0
  | .errinfo => s.errinfo
  | .sel => s.sel.setWidth 32
  | .selPending => s.selPending.setWidth 32
  | .metric => s.metric
  | .rds => s.rds
  | .wordcount => s.wordcount
  | .params => 0x08101040
  | .cfgField => s.cfgField.setWidth 32
  | .cfgCwlen => s.cfgCwlen.setWidth 32
  | .cfgAuglen => s.cfgAuglen.setWidth 32
  | .cfgDivlen => s.cfgDivlen.setWidth 32
  | .cfgNaug => s.cfgNaug.setWidth 32
  | .cfgMode => (BitVec.ofBool s.cfgContinuous).setWidth 32
  | .cfgMethod => (s.cfgMetricSel ++ s.cfgAlphabet).setWidth 32
  | .wlen i => BitVec.ofNat 32 (s.len i)
  | .cell arr k => (s.hostCell arr k).setWidth 32
  | .reserved => 0

/-- `MemRead(a, 4)`. -/
def State.memRead (s : State) (a : Addr) : Word32 := s.readLoc (locOf a.toNat)

/-- A write to `CMD` while `Idle`: latch the word and start the command (10_state.md R39).  How many host operations
may land before the engine's step is a free value (log 2). -/
def State.startCommand (s : State) (v : Word32) : State :=
  { s with cmdLatch := v, phase := .busy, hostTurns := Config.cmdCycles s.epoch }

/-- A write to `WLEN[i]`: lengths above 64 are ignored, and so are bits 31:16 (10_state.md R23). -/
def State.writeLen (s : State) (i : Nat) (v : Word32) : State :=
  let l := (v.setWidth 16).toNat
  if l ≤ Config.maxLen then { s with wlen := s.wlen.setIfInBounds i l } else s

/-- The effect of a 32-bit write to a location; read-only and reserved locations ignore it
(20_memory.md R52, R53). -/
def State.writeLoc (s : State) (v : Word32) : Loc → State
  | .status => s.clearSticky v
  | .cmd => s.startCommand v
  | .cfgField => { s with cfgField := v.setWidth 16 }
  | .cfgCwlen => { s with cfgCwlen := v.setWidth 16 }
  | .cfgAuglen => { s with cfgAuglen := v.setWidth 16 }
  | .cfgDivlen => { s with cfgDivlen := v.setWidth 16 }
  | .cfgNaug => { s with cfgNaug := v.setWidth 16 }
  | .cfgMode => { s with cfgContinuous := v.getLsbD 0 }
  | .cfgMethod => { s with cfgAlphabet := v.setWidth 16, cfgMetricSel := v.extractLsb' 16 8 }
  | .wlen i => s.writeLen i v
  | .cell arr k => if arr.hostWritable then { s with mem := s.mem.write (arr.addr k) (v.setWidth 8) } else s
  | .id => s
  | .errinfo => s
  | .sel => s
  | .selPending => s
  | .metric => s
  | .rds => s
  | .wordcount => s
  | .params => s
  | .reserved => s

/-- `MemWrite(a, 4, v)`.  Every write moves the index of the free values on (log 6). -/
def State.memWrite (s : State) (a : Addr) (v : Word32) : State :=
  { s.writeLoc v (locOf a.toNat) with epoch := s.epoch + 1 }

/-! ### The host's operations -/

/-- The address of `STATUS` (20_memory.md R52). -/
def statusAddr : Addr := 0x0004

/-- The accesses that have a meaning: 32 bits wide at a multiple of 4 (20_memory.md R51). -/
def admitted (width : Nat) (a : Addr) : Bool := width == 32 && a.toNat % 4 == 0

/-- Give the host the value it read. -/
def State.recordRead (s : State) (a : Addr) : State := { s with reads := ⟨a, s.memRead a⟩ :: s.reads }

/-- The reset input: every element at its reset value, in either phase; a command in progress is abandoned
(70_reset_and_hazards.md R190, log 10).  The host's own operations and what it has read are not part of the block, and
the record of the model faults is never cleared (60_exceptions.md R177 (a)). -/
def State.resetInput (s : State) : State :=
  { State.reset with modelFaults := s.modelFaults, host := s.host, reads := s.reads, epoch := s.epoch + 1 }

/-- Perform the host operation `op`, with `s.host` the operations after it.  While `BUSY = 1` only a `STATUS` read
and the reset input have a meaning (20_memory.md R56, 70_reset_and_hazards.md R190, R196).  DESIGN CHOICE (log 25): once
the engine is Idle again every access is admitted, whether or not a STATUS read has returned `BUSY = 0` since the
command; 93_implementation_defined.md U11 can be read as refusing it until then. -/
def hostStep (op : HostOp) (s : State) : Host.Outcome State Fault Refusal :=
  match op with
  | .reset => .next s.resetInput
  | .read width a =>
    if admitted width a = false then .refused .badAccess
    else if s.busy ∧ a ≠ statusAddr then .refused .accessWhileBusy
    else .next (s.recordRead a)
  | .write width a v =>
    if admitted width a = false then .refused .badAccess
    else if s.busy then .refused .accessWhileBusy
    else .next (s.memWrite a v)
  | .wait =>
    let t := s.recordRead statusAddr
    .next (if s.status.getLsbD 0 then { t with host := .wait :: s.host } else t)
  | .wget i =>
    if s.busy then .refused .accessWhileBusy
    else
      let a : Addr := BitVec.ofNat 16 (0x0080 + 4 * i)
      let l := (s.memRead a).toNat
      let cells := (List.range l).map fun k => HostOp.read 32 (BitVec.ofNat 16 ((CellArray.wsym i).addr k))
      .next { s.recordRead a with host := cells ++ s.host }

/-- Who moves next (00_scope.md R6). -/
inductive Turn where
  /-- The host performs `op`, and the state it moves from has `op` taken off its list. -/
  | host (op : HostOp) (s : State)
  /-- The engine executes the latched command. -/
  | engine
  /-- The engine is idle and the host has nothing to do. -/
  | none
deriving DecidableEq, Repr

/-- While `Idle` the host moves; while `Busy` the host may still move as often as `hostTurns` says, and then the
engine takes its step (10_state.md R39, 70_reset_and_hazards.md R203, log 2). -/
def State.turn (s : State) : Turn :=
  match s.phase, s.host with
  | .idle, [] => .none
  | .idle, op :: rest => .host op { s with host := rest }
  | .busy, [] => .engine
  | .busy, op :: rest =>
    match s.hostTurns with
    | 0 => .engine
    | k + 1 => .host op { s with host := rest, hostTurns := k }

/-- Place a command word, numbered as spec/opcode_table.json numbers its bits, in the latch of a busy engine whose
step comes next (10_state.md R39, log 1). -/
def State.latchCommand (s : State) (nbits w : Nat) : State :=
  { s with phase := .busy, cmdLatch := BitVec.ofNat 32 (w % 2 ^ nbits), hostTurns := 0 }

/-! ### Pseudo-instructions (30_encoding.md R77), as lists of host operations -/

/-- `wr32 a, v`. -/
def wr32 (a : Nat) (v : Word32) : List HostOp := [.write 32 (BitVec.ofNat 16 a) v]

/-- `rd32 a -> x`. -/
def rd32 (a : Nat) : List HostOp := [.read 32 (BitVec.ofNat 16 a)]

/-- `issue c`, and a bare command `c`. -/
def issue (i : Instr) : List HostOp := wr32 0x0008 (encode i) ++ [.wait]

/-- Write a list of symbols to the cells of an array. -/
def writeCells (arr : CellArray) (w : Word) : List HostOp :=
  (List.range w.length).flatMap fun k => wr32 (arr.addr k) (BitVec.ofNat 32 (w.getD k 0))

/-- `wset wI, [s0, ...]`. -/
def wset (i : Nat) (w : Word) : List HostOp :=
  writeCells (.wsym i) w ++ wr32 (0x0080 + 4 * i) (BitVec.ofNat 32 w.length)

/-- `wget wI -> x`. -/
def wget (i : Nat) : List HostOp := [.wget i]

/-- `cfg q, n, m, d, N, cont`. -/
def cfg (q n m d numAug cont : Nat) : List HostOp :=
  wr32 0x0040 (BitVec.ofNat 32 q) ++ wr32 0x0044 (BitVec.ofNat 32 n) ++ wr32 0x0048 (BitVec.ofNat 32 m)
    ++ wr32 0x004C (BitVec.ofNat 32 d) ++ wr32 0x0050 (BitVec.ofNat 32 numAug)
    ++ wr32 0x0054 (BitVec.ofNat 32 cont) ++ wr32 0x0058 (BitVec.ofNat 32 q)

/-- `cfgdiv [g0, ...]`. -/
def cfgdiv (g : Word) : List HostOp := writeCells .divisorStg g

/-- `cfgaug s, [a0, ...]`. -/
def cfgaug (slot : Nat) (w : Word) : List HostOp := writeCells (.augStg slot) w

/-- `check`: a read of `STATUS`; the program is wrong unless the value read has `ERRCODE = 0`. -/
def check : List HostOp := rd32 0x0004

/-- What `check` asks of the value it read. -/
def checkPasses (x : Word32) : Bool := x.extractLsb' 8 8 == 0#8

end Sys2Proof.Machine
end

