-- ==== Sys2Proof/Machine/Step.lean ====
section
/-! DEFINITION. One step of the machine: a host operation, or the engine's execution of the latched command. -/

namespace Sys2Proof.Machine

/-- The engine's step: decode the latched word and execute it, or raise `IllegalCommand` (30_encoding.md R71). -/
def engineStep (s : State) : Host.Outcome State Fault Refusal :=
  match s.fetched with
  | .ok i => exec i s
  | .error _ => illegal s

/-- One step.  An idle engine whose host has nothing to do stays as it is (log 9). -/
def step (s : State) : Host.Outcome State Fault Refusal :=
  match s.turn with
  | .host op t => hostStep op t
  | .engine => engineStep s
  | .none => .next s

/-- `s` with the instruction of a table word placed where the very next step takes it: in the command latch of a busy
engine (10_state.md R39, log 1). -/
def State.withFetchWord (s : State) (nbits w : Nat) : State := s.latchCommand nbits w

end Sys2Proof.Machine
end

