-- ==== Sys2Proof/Safety.lean ====
section
/-! DEFINITION. The terms the claims use: the value of a word in the cells, what a command may write, the
invariant of the machine, and the polynomial of a word. -/

namespace Sys2Proof.Machine

/-! ### Words in the cells -/

/-- Every symbol is in `[0, q)` (00_scope.md R11). -/
abbrev ValidWord (q : Nat) (w : Word) : Prop := ∀ x ∈ w, x < q

/-- The word of the `k` cells from address `a` on, or `none` when one of them was never written. -/
def readWord (m : Memory) (a : Nat) : Nat → Option Word
  | 0 => some []
  | k + 1 =>
    match m.read a, readWord m (a + 4) k with
    | some b, some w => some (b.toNat :: w)
    | _, _ => none

/-- The value of word register `i` (10_state.md R22). -/
def State.regWord (s : State) (i : Nat) : Option Word := readWord s.mem (CellArray.wsym i).base (s.len i)

/-- The value of `CAND[slot]`, a word of `A.n` symbols (10_state.md R35). -/
def State.candWord (s : State) (slot : Nat) : Option Word :=
  readWord s.mem (CellArray.cand slot).base s.active.n

/-- Address `a` is one of the first `k` cells of an array. -/
abbrev StoredIn (arr : CellArray) (k a : Nat) : Prop := ∃ j, j < k ∧ a = arr.addr j

/-- The host addresses of the `k` cells from address `a` on. -/
def cellsFrom (a : Nat) : Nat → List Nat
  | 0 => []
  | k + 1 => a :: cellsFrom (a + 4) k

/-- The word that a command reads in the `k` cells from address `a` on: a never-written cell counts with the free value
that the command computes with (log 7). -/
def State.seenWord (s : State) (a k : Nat) : Word := (cellsFrom a k).map fun x => (s.seen x).toNat

/-- The cells of word register `i` (10_state.md R22). -/
def State.regCells (s : State) (i : Nat) : List Nat := cellsFrom (CellArray.wsym i).base (s.len i)

/-- The word that a command reads in word register `i`; it is the register's value when all its cells are written. -/
def State.seenReg (s : State) (i : Nat) : Word := s.seenWord (CellArray.wsym i).base (s.len i)

/-- Word register `i` gives a command the word `w`, every symbol of which is in `[0, q)`. -/
structure Holds (s : State) (i : Nat) (w : Word) : Prop where
  reg : i < 16
  value : s.seenReg i = w
  valid : ValidWord s.active.q w

/-- Symbol `j` of a word is its first that is out of range: the one at which `check_syms` ends (40_word.md R100). -/
structure FirstBad (q : Nat) (w : Word) (j : Nat) : Prop where
  inside : j < w.length
  before : ∀ i, i < j → w.getD i 0 < q
  bad : q ≤ w.getD j 0

/-- The first of these cells that was never written. -/
def State.firstUnwritten (s : State) (cells : List Nat) : Option Nat := cells.find? fun a => s.mem.read a = none

/-- The record of the model faults after a command that reads these cells, in this order: one entry, for the first of
them that was never written, and none when all are written (60_exceptions.md R177 (a)). -/
def State.recorded (s : State) (cells : List Nat) : List ModelFault :=
  match s.firstUnwritten cells with
  | some a => ⟨s.cmdLatch, a⟩ :: s.modelFaults
  | none => s.modelFaults

/-! ### What a command leaves -/

/-- The state a failed command leaves: the error record holds `code` and the failing word, the engine is `Idle`, and
nothing else changed (60_exceptions.md R171). -/
def State.failedWith (s : State) (code : Byte) : State :=
  { s with errcode := code, err := true, errinfo := s.cmdLatch, phase := .idle }

/-- The state of a failed command that has read these cells, in this order, before it raised its error. -/
def State.failedReading (s : State) (code : Byte) (cells : List Nat) : State :=
  { s.failedWith code with modelFaults := s.recorded cells }

/-- `t` is what a successful command leaves that reads these cells, writes the word `w` to register `rd` and changes
nothing else: the frame of the register commands. -/
structure WroteReg (s t : State) (rd : Nat) (w : Word) (cells : List Nat) : Prop where
  value : t.regWord rd = some w
  others : ∀ i, i ≠ rd → t.len i = s.len i
  memory : ∀ a, ¬ StoredIn (.wsym rd) w.length a → t.mem.read a = s.mem.read a
  rest : t = { s with
    mem := t.mem, wlen := t.wlen, errcode := 0, phase := .idle, modelFaults := s.recorded cells }

/-- The `k` cells from address `a` on are all written, with symbols below `q`. -/
def WrittenWord (s : State) (q a k : Nat) : Prop := ∀ j, j < k → ∃ b, s.mem.read (a + 4 * j) = some b ∧ b.toNat < q

/-- Cell `j` is the first of the `k` cells from address `a` on that was never written, and the symbols before it are
below `q`: a command that checks these cells comes upon it (40_word.md R100). -/
structure FirstGap (s : State) (q a k j : Nat) : Prop where
  inside : j < k
  before : WrittenWord s q a j
  gap : s.mem.read (a + 4 * j) = none

/-- The command ends in a next state and records the model fault of reading cell `a` (60_exceptions.md R177 (a)). -/
def RecordsFault (i : Instr) (s : State) (a : Nat) : Prop :=
  ∃ t : State, exec i s = .next t ∧ t.modelFaults = ⟨s.cmdLatch, a⟩ :: s.modelFaults

/-- The staged numbers that pass the checks of CONFIGURE before it reads a cell (44_control.md R156). -/
structure StagedLegal (s : State) : Prop where
  m_pos : 1 ≤ s.cfgAuglen.toNat
  m_lt_n : s.cfgAuglen.toNat < s.cfgCwlen.toNat
  n_le : s.cfgCwlen.toNat ≤ 64
  d_ge : 2 ≤ s.cfgDivlen.toNat
  d_le : s.cfgDivlen.toNat ≤ 64
  q_le : s.cfgField.toNat ≤ 256
  q_prime_power : ∃ p k, Nat.Prime p ∧ 1 ≤ k ∧ s.cfgField.toNat = p ^ k
  alphabet : s.cfgAlphabet = s.cfgField
  metric_sel : s.cfgMetricSel = 0
  N_pos : 1 ≤ s.cfgNaug.toNat
  N_le : s.cfgNaug.toNat ≤ 16

/-- The staged divisor as CONFIGURE reads it. -/
def State.stagedDivisor (s : State) : Word := s.seenWord CellArray.divisorStg.base s.cfgDivlen.toNat

/-- Staged augmenting word `x` as CONFIGURE reads it. -/
def State.stagedAug (s : State) (x : Nat) : Word := s.seenWord (CellArray.augStg x).base s.cfgAuglen.toNat

/-- The cells CONFIGURE reads before augmenting word `x`, in its order: the divisor and the words below `x`. -/
def State.stagedCells (s : State) (x : Nat) : List Nat :=
  cellsFrom CellArray.divisorStg.base s.cfgDivlen.toNat ++
    (List.range x).flatMap fun y => cellsFrom (CellArray.augStg y).base s.cfgAuglen.toNat

/-- The metric of 42_analyzer.md R130 for a codeword `c`, written out. -/
def rdsMetric (s : State) (c : Word) : Nat :=
  (s.rds.toInt + (c.map fun x => 2 * (x : Int) - ((s.active.q : Int) - 1)).sum).natAbs

/-- The engine moves next: a command is in progress and no host operation lands before its end. -/
abbrev EngineTurn (s : State) : Prop := s.phase = .busy ∧ (s.hostTurns = 0 ∨ s.host = [])

/-- The rows of spec/opcode_table.json, `(match, mask)`: a word is a row's command when its bits under the mask are
the match (30_encoding.md R73, R74). -/
def opcodeTable : List (Word32 × Word32) :=
  [(0x00000000, 0xFFFFFFFF), (0x00000001, 0xFFFFFFFF), (0x00000002, 0xFFFFFFFF), (0x00000010, 0xFFF000FF),
   (0x00000011, 0xFFF000FF), (0x00000012, 0xFFF000FF), (0x00000013, 0xFF0000FF), (0x00000020, 0x00FF00FF),
   (0x00000021, 0xFFFF0FFF), (0x00000022, 0xFFFFFFFF), (0x00000023, 0xFFFFF0FF), (0x00000024, 0xFFFF00FF),
   (0x00000030, 0xFFFF00FF)]

/-- The error codes a command can report, from the 'raised by' column of 60_exceptions.md R170. -/
def reportable : Instr → List Byte
  | .nop => []
  | .configure => [0x01, 0x02, 0x03, 0x04, 0x05, 0x09, 0x0D, 0x10]
  | .resetState => []
  | .wadd .. => [0x06, 0x09, 0x0A]
  | .wmul .. => [0x06, 0x09, 0x0A]
  | .pmul .. => [0x06, 0x09, 0x0A, 0x0D]
  | .pdivmod .. => [0x06, 0x08, 0x09, 0x0A, 0x11]
  | .scramble .. => [0x06, 0x09, 0x0A, 0x0C]
  | .candidates .. => [0x06, 0x09, 0x0A]
  | .select => [0x0A, 0x0E]
  | .commit .. => [0x0A, 0x0F]
  | .encode .. => [0x06, 0x09, 0x0A]
  | .decode .. => [0x07, 0x08, 0x09, 0x0A]

/-- The register whose word is the payload of a scrambling command. -/
def payloadReg : Instr → Option Nat
  | .scramble _ rs1 _ => some rs1
  | .candidates rs1 => some rs1
  | .encode _ rs1 => some rs1
  | _ => none

/-- All `A.N` carries are equal (41_scrambler.md R125). -/
def CarriesEqual (s : State) : Prop :=
  ∀ x y, x < s.active.N → y < s.active.N → s.carry x = s.carry y

/-- `poly(w) = sum over i < L of w[i] * x^(L-1-i)`, with coefficients modulo `q` (00_scope.md R10). -/
noncomputable def polyOf (q : Nat) (w : Word) : Polynomial (ZMod q) :=
  ∑ i ∈ Finset.range w.length, Polynomial.C ((w.getD i 0 : Nat) : ZMod q) * Polynomial.X ^ (w.length - 1 - i)

/-! ### The invariant of the machine -/

/-- The legal active configurations: what a successful CONFIGURE checked (44_control.md R156). -/
structure CfgOk (A : ActiveConfig) : Prop where
  m_pos : 1 ≤ A.m
  m_lt_n : A.m < A.n
  n_le : A.n ≤ 64
  d_ge : 2 ≤ A.d
  d_le : A.d ≤ 64
  q_ge : 2 ≤ A.q
  q_le : A.q ≤ 256
  q_prime_power : isPrimePower A.q = true
  N_pos : 1 ≤ A.N
  N_le : A.N ≤ 16
  metric_zero : A.metric = 0
  g_len : A.g.length = A.d
  g_valid : ValidWord A.q A.g
  aug_len : A.aug.length = A.N
  aug_words : ∀ w ∈ A.aug, w.length = A.m ∧ ValidWord A.q w

/-- A cell of a carry or of the remainder is 0 unless continuous mode has written it, and then it is a symbol at an
index below `A.d - 1` (10_state.md R32, R33, 41_scrambler.md R126). -/
abbrev CarryCellOk (s : State) (b : Byte) (k : Nat) : Prop :=
  b = 0 ∨ (s.cfgValid = true ∧ s.active.cont = true ∧ k < s.active.d - 1 ∧ b.toNat < s.active.q)

/-- What holds at reset and is kept by every step. -/
structure Inv (s : State) : Prop where
  /-- The memory has its canonical form (log 8). -/
  mem_wf : s.mem.wf
  /-- Only addresses of symbol cells are listed (20_memory.md R52). -/
  mem_cells : ∀ c ∈ s.mem, isCellAddr c.1 = true
  /-- Every register length is in `[0, 64]` (10_state.md R22). -/
  len_le : ∀ i, i < 16 → s.len i ≤ 64
  /-- A valid active configuration is legal (10_state.md R30, R31). -/
  cfg_ok : s.cfgValid = true → CfgOk s.active
  /-- Only the codes of the error table are ever written (60_exceptions.md R170). -/
  errcode_le : s.errcode.toNat ≤ 0x11
  /-- The carries (10_state.md R32). -/
  carries : ∀ slot, slot < 16 → ∀ k, k < 64 →
    CarryCellOk s ((s.mem.read ((CellArray.slotCarry slot).addr k)).getD 0) k
  /-- The Descrambler remainder (10_state.md R33). -/
  remainder : ∀ k, k < 64 → CarryCellOk s ((s.mem.read (CellArray.descRem.addr k)).getD 0) k
  /-- A pending candidate set is complete and its symbols are in range (10_state.md R35). -/
  candidates : s.candValid = true → s.cfgValid = true ∧
    ∀ slot, slot < s.active.N → (s.candWord slot).any (fun w => w.all (· < s.active.q)) = true
  /-- A pending selection names a pending candidate (10_state.md R36). -/
  selection : s.selValid = true → s.candValid = true ∧ s.selPending.toNat < s.active.N

end Sys2Proof.Machine
end

