-- ==== Sys2Proof/Certificates/Slice0/Obligations.lean ====
section
/-! DEFINITION. The statements about the machine, each from the rules of the spec it names. -/

open Sys2Proof Sys2Proof.Machine

/-! ### Encoding -/

/-- Every well-formed command decodes from its own word (30_encoding.md R70, R72, R76). -/
def Obligations.DecodeInvertsEncode : Prop :=
  ∀ i : Instr, i.wellFormed = true → Sys2Proof.decode (Sys2Proof.encode i) = .ok i

/-- A word that decodes gives a well-formed command whose own word it is: no bit is dropped (30_encoding.md R70, R73). -/
def Obligations.DecodedWordsReencode : Prop :=
  ∀ (v : Word32) (i : Instr), Sys2Proof.decode v = .ok i → i.wellFormed = true ∧ Sys2Proof.encode i = v

/-- The decoder accepts exactly the words that a row of the opcode table matches under its mask
(30_encoding.md R73, R74). -/
def Obligations.DecodeAcceptsExactlyTheTableWords : Prop :=
  ∀ v : Word32, (∃ i, Sys2Proof.decode v = .ok i) ↔ ∃ row ∈ opcodeTable, v &&& row.2 = row.1

/-- The worked encodings of 30_encoding.md R78, which the spec marks as derived from R73 and R76, both ways, and its
illegal word. -/
def Obligations.WorkedEncodingsAgree : Prop :=
  (∀ e ∈ ([(.wadd 3 1 2, 0x00021310), (.pdivmod 4 5 1 2, 0x00521413), (.scramble 2 1 3, 0x03001220),
      (.candidates 1, 0x00001021), (.select, 0x00000022), (.commit 2, 0x00000223), (.encode 2 1, 0x00001224),
      (.decode 3 2, 0x00002330), (.configure, 0x00000001), (.resetState, 0x00000002)] : List (Instr × Word32)),
    Sys2Proof.encode e.1 = e.2 ∧ Sys2Proof.decode e.2 = .ok e.1) ∧
  Sys2Proof.decode 0x00000122 = .error (.mustBeZero 0x22)

/-- The command word on the byte lanes, least significant byte first, decodes as the word does, and the bytes after
it are left (20_memory.md R54; that a command is ever laid out in bytes is the model's, log 21). -/
def Obligations.BytesDecodeAsTheirWord : Prop :=
  ∀ (v : Word32) (rest : List Byte) (i : Instr),
    decodeBytes (wordBytes v ++ rest) = .ok (i, rest) ↔ Sys2Proof.decode v = .ok i

/-! ### Reset, fetching and the error protocol -/

/-- What reset leaves, element by element (10_state.md R40). -/
def Obligations.ResetLeavesTheStatedValues : Prop :=
  (∀ i, i < 16 → State.reset.len i = 0) ∧
  (∀ i k, i < 16 → k < 64 → State.reset.mem.read ((CellArray.wsym i).addr k) = none) ∧
  State.reset.readLoc .id = 0x47534531 ∧ State.reset.readLoc .params = 0x08101040 ∧
  State.reset.readLoc .status = 0 ∧
  State.reset.readLoc .cfgField = 0 ∧ State.reset.readLoc .cfgCwlen = 0 ∧ State.reset.readLoc .cfgAuglen = 0 ∧
  State.reset.readLoc .cfgDivlen = 0 ∧ State.reset.readLoc .cfgNaug = 0 ∧ State.reset.readLoc .cfgMode = 0 ∧
  State.reset.readLoc .cfgMethod = 0 ∧
  (∀ k, k < 64 → State.reset.mem.read (CellArray.divisorStg.addr k) = none) ∧
  (∀ x k, x < 16 → k < 64 → State.reset.mem.read ((CellArray.augStg x).addr k) = none) ∧
  State.reset.cfgValid = false ∧
  (∀ x k, x < 16 → k < 63 → State.reset.mem.read ((CellArray.slotCarry x).addr k) = some 0) ∧
  (∀ k, k < 63 → State.reset.mem.read (CellArray.descRem.addr k) = some 0) ∧
  State.reset.rds = 0 ∧ State.reset.rdsOvf = false ∧
  (∀ x k, x < 16 → k < 64 → State.reset.mem.read ((CellArray.cand x).addr k) = none) ∧
  State.reset.candValid = false ∧
  State.reset.selPending = 0 ∧ State.reset.metric = 0 ∧ State.reset.selValid = false ∧
  State.reset.sel = 0 ∧ State.reset.wordcount = 0 ∧
  State.reset.errcode = 0 ∧ State.reset.err = false ∧ State.reset.errinfo = 0 ∧
  State.reset.phase = .idle

/-- When it is the engine's turn and the latched word decodes, the step is the command's execution; and the word the
host places with `withFetchWord` is the one the very next step executes (30_encoding.md R71, 10_state.md R39). -/
def Obligations.StepExecutesTheLatchedCommand : Prop :=
  (∀ (s : State) (i : Instr), EngineTurn s → Sys2Proof.decode s.cmdLatch = .ok i → step s = exec i s) ∧
  (∀ (s : State) (nbits w : Nat) (i : Instr), decodeTableWord nbits w = some i →
    step (s.withFetchWord nbits w) = exec i (s.withFetchWord nbits w))

/-- A latched word that no row of the opcode map matches raises IllegalCommand, and nothing but the error record
changes; 243 of the 256 opcodes are in no row (30_encoding.md R75). -/
def Obligations.IllegalWordsRaiseIllegalCommand : Prop :=
  (∀ s : State, EngineTurn s → (∀ row ∈ opcodeTable, s.cmdLatch &&& row.2 ≠ row.1) →
    step s = .next (s.failedWith 0x0B)) ∧
  ((List.range 256).filter fun o => opcodeTable.all fun row => row.1.toNat != o).length = 243

/-- The whole of the CFG_VALID rule: its reset value, what a successful and a failed CONFIGURE do to it and to the
active configuration, that no other command changes it, and that every command but three fails without it
(10_state.md R31). -/
def Obligations.ConfigurationValidity : Prop :=
  State.reset.cfgValid = false ∧
  (∀ s t : State, exec .configure s = .next t → t.errcode = 0 → t.cfgValid = true) ∧
  (∀ (i : Instr) (s t : State), i ≠ .configure → exec i s = .next t → t.cfgValid = s.cfgValid) ∧
  (∀ s t : State, exec .configure s = .next t → t.errcode ≠ 0 → t.cfgValid = s.cfgValid ∧ t.active = s.active) ∧
  (∀ (i : Instr) (s : State), i ≠ .nop → i ≠ .configure → i ≠ .resetState → s.cfgValid = false →
    exec i s = .next (s.failedWith 0x0A))

/-- A command that ends with an error changes nothing but the error record and the phase (and the record of the model
faults, when it read a never-written cell) (60_exceptions.md R171, 70_reset_and_hazards.md R201).
That a command with a never-written operand cell ends so is the model's (log 7, log 26). -/
def Obligations.FailedCommandsChangeOnlyTheErrorRecord : Prop :=
  ∀ (i : Instr) (s t : State), exec i s = .next t → t.errcode ≠ 0 →
    t = { s.failedWith t.errcode with modelFaults := t.modelFaults }

/-- Every command that ends returns the engine to Idle and leaves the latch and the host's side alone; one that
succeeds leaves ERR and ERRINFO alone (10_state.md R38, R39). -/
def Obligations.CompletedCommandsReturnToIdle : Prop :=
  ∀ (i : Instr) (s t : State), exec i s = .next t →
    t.phase = .idle ∧ t.cmdLatch = s.cmdLatch ∧ t.host = s.host ∧ t.reads = s.reads ∧ t.epoch = s.epoch ∧
    (t.errcode = 0 → t.err = s.err ∧ t.errinfo = s.errinfo)

/-- A command reports only the error codes that the error table says it raises (60_exceptions.md R170).
That a command with a never-written operand cell reports a code as any other is the model's (log 7, log 26). -/
def Obligations.ErrorCodesComeFromTheirCommands : Prop :=
  ∀ (i : Instr) (s t : State), exec i s = .next t → t.errcode = 0 ∨ t.errcode ∈ reportable i

/-- Every command ends in a next state, and it adds to the record of the model faults nothing, or one entry with its own
word and a cell that was never written; that the command runs on is the model's, log 7 (60_exceptions.md R177 (a)). -/
def Obligations.EveryCommandEnds : Prop :=
  ∀ (i : Instr) (s : State), ∃ t : State, exec i s = .next t ∧
    (t.modelFaults = s.modelFaults ∨
      ∃ a, s.mem.read a = none ∧ t.modelFaults = ⟨s.cmdLatch, a⟩ :: s.modelFaults)

/-- A command whose earlier checks pass, and which comes in check order upon a cell that was never written, records the
model fault with that cell and ends: the first and the second source register of every command that has one, and the
staged divisor and augmenting words of CONFIGURE (60_exceptions.md R177 (a), 40_word.md R100, 44_control.md R156; that
the command ends is the model's, log 7). -/
def Obligations.UnwrittenCellsAreRecorded : Prop :=
  ∀ (s : State) (rd rd2 rs1 rs2 slot k : Nat),
    (s.cfgValid = true → FirstGap s s.active.q (CellArray.wsym rs1).base (s.len rs1) k →
      (s.len rs1 = s.len rs2 →
        RecordsFault (.wadd rd rs1 rs2) s ((CellArray.wsym rs1).addr k) ∧
        RecordsFault (.wmul rd rs1 rs2) s ((CellArray.wsym rs1).addr k)) ∧
      (1 ≤ s.len rs2 → s.len rs1 + s.len rs2 - 1 ≤ 64 →
        RecordsFault (.pmul rd rs1 rs2) s ((CellArray.wsym rs1).addr k)) ∧
      (1 ≤ s.len rs2 → rd ≠ rd2 → RecordsFault (.pdivmod rd rd2 rs1 rs2) s ((CellArray.wsym rs1).addr k)) ∧
      (s.len rs1 = s.active.n - s.active.m →
        RecordsFault (.candidates rs1) s ((CellArray.wsym rs1).addr k) ∧
        RecordsFault (.encode rd rs1) s ((CellArray.wsym rs1).addr k) ∧
        (slot < s.active.N → RecordsFault (.scramble rd rs1 slot) s ((CellArray.wsym rs1).addr k))) ∧
      (s.len rs1 = s.active.n → RecordsFault (.decode rd rs1) s ((CellArray.wsym rs1).addr k))) ∧
    (s.cfgValid = true → WrittenWord s s.active.q (CellArray.wsym rs1).base (s.len rs1) →
      FirstGap s s.active.q (CellArray.wsym rs2).base (s.len rs2) k →
      (s.len rs1 = s.len rs2 →
        RecordsFault (.wadd rd rs1 rs2) s ((CellArray.wsym rs2).addr k) ∧
        RecordsFault (.wmul rd rs1 rs2) s ((CellArray.wsym rs2).addr k)) ∧
      (1 ≤ s.len rs1 → s.len rs1 + s.len rs2 - 1 ≤ 64 →
        RecordsFault (.pmul rd rs1 rs2) s ((CellArray.wsym rs2).addr k)) ∧
      (rd ≠ rd2 → RecordsFault (.pdivmod rd rd2 rs1 rs2) s ((CellArray.wsym rs2).addr k))) ∧
    (StagedLegal s →
      (FirstGap s s.cfgField.toNat CellArray.divisorStg.base s.cfgDivlen.toNat k →
        RecordsFault .configure s (CellArray.divisorStg.addr k)) ∧
      (WrittenWord s s.cfgField.toNat CellArray.divisorStg.base s.cfgDivlen.toNat → ∀ x, x < s.cfgNaug.toNat →
        (∀ y, y < x → WrittenWord s s.cfgField.toNat (CellArray.augStg y).base s.cfgAuglen.toNat) →
        FirstGap s s.cfgField.toNat (CellArray.augStg x).base s.cfgAuglen.toNat k →
        RecordsFault .configure s ((CellArray.augStg x).addr k)))

/-! ### What the whole command set leaves alone -/

/-- RDS, SEL and WORDCOUNT change only in COMMIT, in ENCODE through its commit step, and where CONFIGURE and RESET_STATE
clear them; RDS_OVF changes only in COMMIT and ENCODE, which set it (10_state.md R34, R37, 42_analyzer.md R131, R135). -/
def Obligations.AnalyzerStateAdvancesOnlyOnCommit : Prop :=
  ∀ (i : Instr) (s t : State), exec i s = .next t →
    ((t.rds ≠ s.rds ∨ t.sel ≠ s.sel ∨ t.wordcount ≠ s.wordcount) →
      (∃ rd, i = .commit rd) ∨ (∃ rd rs1, i = .encode rd rs1) ∨
        ((i = .configure ∨ i = .resetState) ∧ t.rds = 0 ∧ t.sel = 0 ∧ t.wordcount = 0)) ∧
    (t.rdsOvf ≠ s.rdsOvf → t.rdsOvf = true ∧ ((∃ rd, i = .commit rd) ∨ ∃ rd rs1, i = .encode rd rs1))

/-- A carry cell changes only in continuous mode by SCRAMBLE on its slot, CANDIDATES or ENCODE, a cell of the
remainder only in continuous mode by DECODE, and either where CONFIGURE and RESET_STATE clear it
(10_state.md R32, R33, 41_scrambler.md R126). -/
def Obligations.CarriesChangeOnlyInContinuousMode : Prop :=
  ∀ (i : Instr) (s t : State), Inv s → i.wellFormed = true → exec i s = .next t →
    (∀ x k, x < 16 → k < 64 →
      t.mem.read ((CellArray.slotCarry x).addr k) ≠ s.mem.read ((CellArray.slotCarry x).addr k) →
      i = .configure ∨ i = .resetState ∨ (s.active.cont = true ∧
        ((∃ rd rs1, i = .scramble rd rs1 x) ∨ (∃ rs1, i = .candidates rs1) ∨ ∃ rd rs1, i = .encode rd rs1))) ∧
    (∀ k, k < 64 → t.mem.read (CellArray.descRem.addr k) ≠ s.mem.read (CellArray.descRem.addr k) →
      i = .configure ∨ i = .resetState ∨ (s.active.cont = true ∧ ∃ rd rs1, i = .decode rd rs1))

/-- No command changes the staging configuration, and only CONFIGURE changes the active one
(10_state.md R28, R29, R30). -/
def Obligations.CommandsKeepTheStaging : Prop :=
  ∀ (i : Instr) (s t : State), Inv s → i.wellFormed = true → exec i s = .next t →
    t.cfgField = s.cfgField ∧ t.cfgCwlen = s.cfgCwlen ∧ t.cfgAuglen = s.cfgAuglen ∧ t.cfgDivlen = s.cfgDivlen ∧
    t.cfgNaug = s.cfgNaug ∧ t.cfgContinuous = s.cfgContinuous ∧ t.cfgAlphabet = s.cfgAlphabet ∧
    t.cfgMetricSel = s.cfgMetricSel ∧
    (∀ k, k < 64 → t.mem.read (CellArray.divisorStg.addr k) = s.mem.read (CellArray.divisorStg.addr k)) ∧
    (∀ x k, x < 16 → k < 64 →
      t.mem.read ((CellArray.augStg x).addr k) = s.mem.read ((CellArray.augStg x).addr k)) ∧
    (i ≠ .configure → t.active = s.active)

/-! ### The control commands -/

/-- NOP succeeds in every state, configured or not, and changes nothing but ERRCODE and the phase; its word is
`0x00000000`, and `0x00000100` is illegal (44_control.md R159). -/
def Obligations.NopOnlyClearsErrcode : Prop :=
  (∀ s : State, exec .nop s = .next { s with errcode := 0, phase := .idle }) ∧
  Sys2Proof.encode .nop = 0x00000000 ∧ Sys2Proof.decode 0x00000000 = .ok .nop ∧
  Sys2Proof.decode 0x00000100 = .error (.mustBeZero 0)

/-- RESET_STATE succeeds in every state, clears the carries, the remainder, the Analyzer and the selection state, and
changes nothing else; its word is `0x00000002`; in block mode the carries and the remainder are already zero
(44_control.md R158). -/
def Obligations.ResetStateClearsRunningState : Prop :=
  Sys2Proof.encode .resetState = 0x00000002 ∧ Sys2Proof.decode 0x00000002 = .ok .resetState ∧
  (∀ s : State, Inv s → s.active.cont = false →
    (∀ x k, x < 16 → k < 64 → s.mem.read ((CellArray.slotCarry x).addr k) = some 0) ∧
    ∀ k, k < 64 → s.mem.read (CellArray.descRem.addr k) = some 0) ∧
  ∀ s : State, ∃ t : State, exec .resetState s = .next t ∧
    (∀ x k, x < 16 → k < 64 → t.mem.read ((CellArray.slotCarry x).addr k) = some 0) ∧
    (∀ k, k < 64 → t.mem.read (CellArray.descRem.addr k) = some 0) ∧
    (∀ a, (∀ x k, x < 16 → k < 64 → a ≠ (CellArray.slotCarry x).addr k ∧ a ≠ CellArray.descRem.addr k) →
      a % 4 = 0 → t.mem.read a = s.mem.read a) ∧
    t = { s with
      mem := t.mem
      rds := 0
      candValid := false
      selValid := false
      selPending := 0
      metric := 0
      sel := 0
      wordcount := 0
      errcode := 0
      phase := .idle }

/-- CONFIGURE on legal staged numbers and in-range staged symbols latches exactly them, sets CFG_VALID and resets all
running state; no other state of the block changes (44_control.md R156).  A staged cell that was never written counts with the free
value the command reads, and is recorded (log 7).
That CONFIGURE then runs on and ends like any other command is the model's (log 7, log 26). -/
def Obligations.ConfigureLatchesTheStaging : Prop :=
  ∀ s : State, StagedLegal s → ValidWord s.cfgField.toNat s.stagedDivisor →
    (∀ x, x < s.cfgNaug.toNat → ValidWord s.cfgField.toNat (s.stagedAug x)) →
    ∃ t : State, exec .configure s = .next t ∧
      (∀ x k, x < 16 → k < 64 → t.mem.read ((CellArray.slotCarry x).addr k) = some 0) ∧
      (∀ k, k < 64 → t.mem.read (CellArray.descRem.addr k) = some 0) ∧
      (∀ a, (∀ x k, x < 16 → k < 64 → a ≠ (CellArray.slotCarry x).addr k ∧ a ≠ CellArray.descRem.addr k) →
        a % 4 = 0 → t.mem.read a = s.mem.read a) ∧
      t = { s with
        active :=
          { q := s.cfgField.toNat, n := s.cfgCwlen.toNat, m := s.cfgAuglen.toNat, d := s.cfgDivlen.toNat
            N := s.cfgNaug.toNat, cont := s.cfgContinuous, metric := 0, g := s.stagedDivisor
            aug := (List.range s.cfgNaug.toNat).map s.stagedAug }
        cfgValid := true
        mem := t.mem
        rds := 0
        candValid := false
        selValid := false
        selPending := 0
        metric := 0
        sel := 0
        wordcount := 0
        errcode := 0
        phase := .idle
        modelFaults := s.recorded (s.stagedCells s.cfgNaug.toNat) }

/-- The checks of CONFIGURE on the staged numbers, each with the code it reports, in their fixed order: every clause
supposes that the checks before it passed.  The symbol checks end at the first symbol out of range, whatever the cells
after it hold (44_control.md R156, 60_exceptions.md R172, 40_word.md R100).
A never-written cell among those read counts with its free value and is recorded, and the command runs on, which is
the model's (log 7, log 26). -/
def Obligations.ConfigureReportsTheFirstFailingCheck : Prop :=
  ∀ (s : State) (q n m d numAug : Nat), q = s.cfgField.toNat → n = s.cfgCwlen.toNat → m = s.cfgAuglen.toNat →
    d = s.cfgDivlen.toNat → numAug = s.cfgNaug.toNat →
    (m < 1 → exec .configure s = .next (s.failedWith 0x01)) ∧
    (1 ≤ m → n ≤ m → exec .configure s = .next (s.failedWith 0x02)) ∧
    (1 ≤ m → m < n → d < 2 → exec .configure s = .next (s.failedWith 0x03)) ∧
    (1 ≤ m → m < n → 2 ≤ d → (256 < q ∨ ¬ ∃ p k, Nat.Prime p ∧ 1 ≤ k ∧ q = p ^ k) →
      exec .configure s = .next (s.failedWith 0x04)) ∧
    (1 ≤ m → m < n → 2 ≤ d → q ≤ 256 → (∃ p k, Nat.Prime p ∧ 1 ≤ k ∧ q = p ^ k) →
      ((s.cfgAlphabet.toNat ≠ q ∨ s.cfgMetricSel ≠ 0) → exec .configure s = .next (s.failedWith 0x05)) ∧
      (s.cfgAlphabet.toNat = q → s.cfgMetricSel = 0 →
        ((64 < n ∨ 64 < d) → exec .configure s = .next (s.failedWith 0x0D)) ∧
        (n ≤ 64 → d ≤ 64 → (numAug < 1 ∨ 16 < numAug) → exec .configure s = .next (s.failedWith 0x10)) ∧
        (n ≤ 64 → d ≤ 64 → 1 ≤ numAug → numAug ≤ 16 →
          (∀ j, FirstBad q s.stagedDivisor j → exec .configure s =
            .next (s.failedReading 0x09 ((cellsFrom CellArray.divisorStg.base d).take (j + 1)))) ∧
          (ValidWord q s.stagedDivisor → ∀ x j, x < numAug → (∀ y, y < x → ValidWord q (s.stagedAug y)) →
            FirstBad q (s.stagedAug x) j → exec .configure s = .next (s.failedReading 0x09
              (s.stagedCells x ++ (cellsFrom (CellArray.augStg x).base m).take (j + 1)))))))

/-! ### The Word family -/

/-- WADD on words of equal length writes their sum symbol by symbol, modulo `q`, and no other state of the block
(40_word.md R104).
The operand words are read as log 7 says: a never-written cell counts with its free value and adds one entry to the
record of the model faults, which is no state of the block, and that the command runs on and ends like any other
there is the model's (log 7, log 26). -/
def Obligations.WaddWritesTheElementwiseSum : Prop :=
  ∀ (s : State) (rd rs1 rs2 : Nat) (a b : Word), Inv s → rd < 16 → s.cfgValid = true →
    Holds s rs1 a → Holds s rs2 b → a.length = b.length →
    ∃ t : State, exec (.wadd rd rs1 rs2) s = .next t ∧
      WroteReg s t rd (List.zipWith (fun x y => (x + y) % s.active.q) a b)
        (s.regCells rs1 ++ s.regCells rs2)

/-- WMUL on words of equal length writes their product symbol by symbol, modulo `q`, and no other state of the block
(40_word.md R105).
The operand words are read as log 7 says: a never-written cell counts with its free value and adds one entry to the
record of the model faults, which is no state of the block, and that the command runs on and ends like any other
there is the model's (log 7, log 26). -/
def Obligations.WmulWritesTheElementwiseProduct : Prop :=
  ∀ (s : State) (rd rs1 rs2 : Nat) (a b : Word), Inv s → rd < 16 → s.cfgValid = true →
    Holds s rs1 a → Holds s rs2 b → a.length = b.length →
    ∃ t : State, exec (.wmul rd rs1 rs2) s = .next t ∧
      WroteReg s t rd (List.zipWith (fun x y => (x * y) % s.active.q) a b)
        (s.regCells rs1 ++ s.regCells rs2)

/-- PMUL on nonempty words whose product fits 64 symbols writes the coefficients of the product, each reduced modulo
`q`, and no other state of the block (40_word.md R106, R102).
The operand words are read as log 7 says: a never-written cell counts with its free value and adds one entry to the
record of the model faults, which is no state of the block, and that the command runs on and ends like any other
there is the model's (log 7, log 26). -/
def Obligations.PmulWritesThePolynomialProduct : Prop :=
  ∀ (s : State) (rd rs1 rs2 : Nat) (a b : Word), Inv s → rd < 16 → s.cfgValid = true →
    Holds s rs1 a → Holds s rs2 b → 1 ≤ a.length → 1 ≤ b.length → a.length + b.length - 1 ≤ 64 →
    ∃ t : State, exec (.pmul rd rs1 rs2) s = .next t ∧
      WroteReg s t rd ((List.range (a.length + b.length - 1)).map fun k =>
        (∑ i ∈ Finset.range (k + 1), a.getD i 0 * b.getD (k - i) 0) % s.active.q) (s.regCells rs1 ++ s.regCells rs2)

/-- PDIVMOD with distinct destinations and a divisor whose leading symbol is a unit writes words Q and R of lengths
`max(len(a) - len(b) + 1, 0)` and `len(b) - 1` with `a = Q * b + R`, and no other state of the block (40_word.md R107, R109).
The operand words are read as log 7 says: a never-written cell counts with its free value and adds one entry to the
record of the model faults, which is no state of the block, and that the command runs on and ends like any other
there is the model's (log 7, log 26).
The identity `a = Q * b + R` is the spec's own inference, marked 'derived' at R109. -/
def Obligations.PdivmodWritesQuotientAndRemainder : Prop :=
  ∀ (s : State) (rd rd2 rs1 rs2 : Nat) (a b : Word), Inv s → rd < 16 → rd2 < 16 → rd ≠ rd2 → s.cfgValid = true →
    Holds s rs1 a → Holds s rs2 b → 1 ≤ b.length → Nat.gcd (b.getD 0 0) s.active.q = 1 →
    ∃ (t : State) (qt r : Word), exec (.pdivmod rd rd2 rs1 rs2) s = .next t ∧
      t.regWord rd = some qt ∧ t.regWord rd2 = some r ∧
      qt.length = a.length + 1 - b.length ∧ r.length = b.length - 1 ∧
      ValidWord s.active.q qt ∧ ValidWord s.active.q r ∧
      polyOf s.active.q a = polyOf s.active.q qt * polyOf s.active.q b + polyOf s.active.q r ∧
      (∀ i, i ≠ rd → i ≠ rd2 → t.len i = s.len i) ∧
      (∀ x, ¬ StoredIn (.wsym rd) qt.length x → ¬ StoredIn (.wsym rd2) r.length x → t.mem.read x = s.mem.read x) ∧
      t = { s with
        mem := t.mem, wlen := t.wlen, errcode := 0, phase := .idle
        modelFaults := s.recorded (s.regCells rs1 ++ s.regCells rs2) }

/-- WADD and WMUL report unequal lengths first, then the first symbol out of range, of `rs1` before `rs2`, whatever the
cells after it hold (40_word.md R100, R104, R105, 60_exceptions.md R172).
A never-written cell among those read counts with its free value and is recorded, and the command runs on, which is
the model's (log 7, log 26). -/
def Obligations.ElementwiseCommandsReportTheirErrors : Prop :=
  ∀ (s : State) (rd rs1 rs2 j : Nat), s.cfgValid = true →
    (s.len rs1 ≠ s.len rs2 →
      exec (.wadd rd rs1 rs2) s = .next (s.failedWith 0x06) ∧ exec (.wmul rd rs1 rs2) s = .next (s.failedWith 0x06)) ∧
    (s.len rs1 = s.len rs2 →
      (FirstBad s.active.q (s.seenReg rs1) j →
        exec (.wadd rd rs1 rs2) s = .next (s.failedReading 0x09 ((s.regCells rs1).take (j + 1))) ∧
        exec (.wmul rd rs1 rs2) s = .next (s.failedReading 0x09 ((s.regCells rs1).take (j + 1)))) ∧
      (ValidWord s.active.q (s.seenReg rs1) → FirstBad s.active.q (s.seenReg rs2) j →
        exec (.wadd rd rs1 rs2) s =
          .next (s.failedReading 0x09 (s.regCells rs1 ++ (s.regCells rs2).take (j + 1))) ∧
        exec (.wmul rd rs1 rs2) s =
          .next (s.failedReading 0x09 (s.regCells rs1 ++ (s.regCells rs2).take (j + 1)))))

/-- PMUL reports an empty operand, then a product longer than 64, then the first symbol out of range, of `rs1` before
`rs2`, whatever the cells after it hold (40_word.md R100, R106, 60_exceptions.md R172).
A never-written cell among those read counts with its free value and is recorded, and the command runs on, which is
the model's (log 7, log 26). -/
def Obligations.PmulReportsItsErrors : Prop :=
  ∀ (s : State) (rd rs1 rs2 j : Nat), s.cfgValid = true →
    ((s.len rs1 = 0 ∨ s.len rs2 = 0) → exec (.pmul rd rs1 rs2) s = .next (s.failedWith 0x06)) ∧
    (1 ≤ s.len rs1 → 1 ≤ s.len rs2 → 64 < s.len rs1 + s.len rs2 - 1 →
      exec (.pmul rd rs1 rs2) s = .next (s.failedWith 0x0D)) ∧
    (1 ≤ s.len rs1 → 1 ≤ s.len rs2 → s.len rs1 + s.len rs2 - 1 ≤ 64 →
      (FirstBad s.active.q (s.seenReg rs1) j →
        exec (.pmul rd rs1 rs2) s = .next (s.failedReading 0x09 ((s.regCells rs1).take (j + 1)))) ∧
      (ValidWord s.active.q (s.seenReg rs1) → FirstBad s.active.q (s.seenReg rs2) j →
        exec (.pmul rd rs1 rs2) s =
          .next (s.failedReading 0x09 (s.regCells rs1 ++ (s.regCells rs2).take (j + 1)))))

/-- PDIVMOD reports equal destinations, then an empty divisor, then the first symbol out of range, of `rs1` before
`rs2`, whatever the cells after it hold, then a leading symbol that is no unit (40_word.md R100, R107,
60_exceptions.md R172).
A never-written cell among those read counts with its free value and is recorded, and the command runs on, which is
the model's (log 7, log 26). -/
def Obligations.PdivmodReportsItsErrors : Prop :=
  ∀ (s : State) (rd rd2 rs1 rs2 j : Nat), s.cfgValid = true →
    (rd = rd2 → exec (.pdivmod rd rd2 rs1 rs2) s = .next (s.failedWith 0x11)) ∧
    (rd ≠ rd2 → s.len rs2 = 0 → exec (.pdivmod rd rd2 rs1 rs2) s = .next (s.failedWith 0x06)) ∧
    (rd ≠ rd2 → 1 ≤ s.len rs2 →
      (FirstBad s.active.q (s.seenReg rs1) j →
        exec (.pdivmod rd rd2 rs1 rs2) s = .next (s.failedReading 0x09 ((s.regCells rs1).take (j + 1)))) ∧
      (ValidWord s.active.q (s.seenReg rs1) → FirstBad s.active.q (s.seenReg rs2) j →
        exec (.pdivmod rd rd2 rs1 rs2) s =
          .next (s.failedReading 0x09 (s.regCells rs1 ++ (s.regCells rs2).take (j + 1)))) ∧
      (ValidWord s.active.q (s.seenReg rs1) → ValidWord s.active.q (s.seenReg rs2) →
        Nat.gcd ((s.seenReg rs2).getD 0 0) s.active.q ≠ 1 →
        exec (.pdivmod rd rd2 rs1 rs2) s = .next (s.failedReading 0x08 (s.regCells rs1 ++ s.regCells rs2))))

/-- The full product of two words: its length, each coefficient as the reduced sum over all pairs of positions, and
its polynomial, which is the product of the polynomials (40_word.md R102; the last is the spec's own inference, marked
there as derived). -/
def Obligations.ProductIsThePolynomialProduct : Prop :=
  ∀ (q : Nat) (a b : Word), 1 ≤ a.length → 1 ≤ b.length →
    (pmulf q a b).length = a.length + b.length - 1 ∧
    (∀ k, k < a.length + b.length - 1 → (pmulf q a b).getD k 0 =
      (∑ i ∈ Finset.range a.length, ∑ j ∈ Finset.range b.length,
        if i + j = k then a.getD i 0 * b.getD j 0 else 0) % q) ∧
    polyOf q (pmulf q a b) = polyOf q a * polyOf q b

/-- The division identity: quotient and remainder have their lengths, are in range, satisfy `a = Q * b + R` modulo `q`, and are the
only words of those lengths that do, whenever the leading symbol of the divisor is a unit; a dividend shorter than the
divisor has the empty quotient (40_word.md R109, the spec's own inference, marked there as derived from R103). -/
def Obligations.DivisionIdentity : Prop :=
  ∀ (q : Nat) (a b : Word), 2 ≤ q → ValidWord q a → ValidWord q b → 1 ≤ b.length → Nat.gcd (b.getD 0 0) q = 1 →
    (divmodf q a b).1.length = a.length + 1 - b.length ∧ (divmodf q a b).2.length = b.length - 1 ∧
    ValidWord q (divmodf q a b).1 ∧ ValidWord q (divmodf q a b).2 ∧
    polyOf q a = polyOf q (divmodf q a b).1 * polyOf q b + polyOf q (divmodf q a b).2 ∧
    (∀ qt r : Word, qt.length = a.length + 1 - b.length → r.length = b.length - 1 → ValidWord q qt → ValidWord q r →
      polyOf q a = polyOf q qt * polyOf q b + polyOf q r → qt = (divmodf q a b).1 ∧ r = (divmodf q a b).2)

/-- The inverse of a unit is the one symbol in `[1, q)` whose product with it is 1 (00_scope.md R11). -/
def Obligations.UnitsHaveOneInverse : Prop :=
  ∀ q a : Nat, 2 ≤ q → Nat.gcd a q = 1 →
    1 ≤ invq q a ∧ invq q a < q ∧ mulq q a (invq q a) = 1 ∧
    ∀ b, 1 ≤ b → b < q → mulq q a b = 1 → b = invq q a

/-- The field-size test accepts exactly the prime powers (00_scope.md R13). -/
def Obligations.PrimePowerTestIsExact : Prop :=
  ∀ q : Nat, isPrimePower q = true ↔ ∃ p k, Nat.Prime p ∧ 1 ≤ k ∧ q = p ^ k

/-! ### The scrambler array -/

/-- SCRAMBLE writes the codeword of its slot and, in continuous mode, that slot's next carry; no other state of the block
changes
(41_scrambler.md R120, R121, R122).
The source word is read as log 7 says: a never-written cell counts with its free value and adds one entry to the
record of the model faults, which is no state of the block, and that the command runs on and ends like any other
there is the model's (log 7, log 26). -/
def Obligations.ScrambleRunsOneSlot : Prop :=
  ∀ (s : State) (rd rs1 slot : Nat) (p c c' : Word), Inv s → rd < 16 → s.cfgValid = true → Holds s rs1 p →
    slot < s.active.N → p.length = s.active.n - s.active.m →
    (c, c') = scr s.active.q s.active.n s.active.d s.active.cont s.active.g
      (s.active.aug.getD slot [] ++ p) (s.carry slot) →
    ∃ t : State, exec (.scramble rd rs1 slot) s = .next t ∧
      c.length = s.active.n ∧ t.regWord rd = some c ∧
      (∀ x, x < 16 → t.carry x = if s.active.cont = true ∧ x = slot then c' else s.carry x) ∧
      (∀ i, i ≠ rd → t.len i = s.len i) ∧
      (∀ a, ¬ StoredIn (.wsym rd) s.active.n a →
        ¬ (s.active.cont = true ∧ StoredIn (.slotCarry slot) (s.active.d - 1) a) → t.mem.read a = s.mem.read a) ∧
      t = { s with
        mem := t.mem, wlen := t.wlen, errcode := 0, phase := .idle, modelFaults := s.recorded (s.regCells rs1) }

/-- CANDIDATES writes the codeword of every slot, in continuous mode advances every slot's carry from its own old one,
sets CAND_VALID and clears SEL_VALID; no other state of the block changes (41_scrambler.md R123).
The source word is read as log 7 says: a never-written cell counts with its free value and adds one entry to the
record of the model faults, which is no state of the block, and that the command runs on and ends like any other
there is the model's (log 7, log 26). -/
def Obligations.CandidatesRunsEverySlot : Prop :=
  ∀ (s : State) (rs1 : Nat) (p : Word), Inv s → s.cfgValid = true → Holds s rs1 p →
    p.length = s.active.n - s.active.m →
    ∃ t : State, exec (.candidates rs1) s = .next t ∧
      (∀ x, x < s.active.N → t.candWord x = some (scr s.active.q s.active.n s.active.d s.active.cont s.active.g
        (s.active.aug.getD x [] ++ p) (s.carry x)).1) ∧
      (∀ x, x < 16 → t.carry x =
        if s.active.cont = true ∧ x < s.active.N then
          (scr s.active.q s.active.n s.active.d s.active.cont s.active.g
            (s.active.aug.getD x [] ++ p) (s.carry x)).2
        else s.carry x) ∧
      (∀ a, (∀ x, x < s.active.N → ¬ StoredIn (.cand x) s.active.n a) →
        (s.active.cont = true → ∀ x, x < s.active.N → ¬ StoredIn (.slotCarry x) (s.active.d - 1) a) →
        t.mem.read a = s.mem.read a) ∧
      t = { s with
        mem := t.mem, candValid := true, selValid := false, errcode := 0, phase := .idle
        modelFaults := s.recorded (s.regCells rs1) }

/-- SCRAMBLE, CANDIDATES and ENCODE report, in this order, a slot the configuration does not have (SCRAMBLE), a payload
of the wrong length, and the first payload symbol out of range, whatever the cells after it hold (41_scrambler.md R122,
R123, 42_analyzer.md R134, 40_word.md R100, 60_exceptions.md R172).
A never-written cell among those read counts with its free value and is recorded, and the command runs on, which is
the model's (log 7, log 26). -/
def Obligations.ScramblingCommandsReportTheirErrors : Prop :=
  ∀ (s : State) (rd rs1 slot j : Nat), s.cfgValid = true →
    (s.active.N ≤ slot → exec (.scramble rd rs1 slot) s = .next (s.failedWith 0x0C)) ∧
    (s.len rs1 ≠ s.active.n - s.active.m →
      (slot < s.active.N → exec (.scramble rd rs1 slot) s = .next (s.failedWith 0x06)) ∧
      exec (.candidates rs1) s = .next (s.failedWith 0x06) ∧
      exec (.encode rd rs1) s = .next (s.failedWith 0x06)) ∧
    (s.len rs1 = s.active.n - s.active.m → FirstBad s.active.q (s.seenReg rs1) j →
      (slot < s.active.N →
        exec (.scramble rd rs1 slot) s = .next (s.failedReading 0x09 ((s.regCells rs1).take (j + 1)))) ∧
      exec (.candidates rs1) s = .next (s.failedReading 0x09 ((s.regCells rs1).take (j + 1))) ∧
      exec (.encode rd rs1) s = .next (s.failedReading 0x09 ((s.regCells rs1).take (j + 1))))

/-- Slot isolation: in every command, a slot's new carry depends only on its old carry, its augmenting word, the
payload and the active configuration; two runs that agree on these (and in whether the command succeeds) leave the
same carry, whatever the other slots hold (41_scrambler.md R124, the spec's own inference, marked there as derived).
A payload cell that was never written counts with its free value (log 7). -/
def Obligations.SlotsAreIsolated : Prop :=
  ∀ (i : Instr) (s s' t t' : State) (x : Nat), Inv s → Inv s' → i.wellFormed = true → x < 16 →
    s'.active = s.active → s'.cfgValid = s.cfgValid →
    (∀ r, payloadReg i = some r → s'.len r = s.len r ∧ s'.seenReg r = s.seenReg r) →
    (∀ k, k < 64 → s'.mem.read ((CellArray.slotCarry x).addr k) = s.mem.read ((CellArray.slotCarry x).addr k)) →
    exec i s = .next t → exec i s' = .next t' → t'.errcode = t.errcode →
    ∀ k, k < 64 → t'.mem.read ((CellArray.slotCarry x).addr k) = t.mem.read ((CellArray.slotCarry x).addr k)

/-- When `d - 1 <= n - m`, every command but SCRAMBLE keeps all carries equal (41_scrambler.md R125, the spec's own
inference, marked there as derived). -/
def Obligations.CarriesStayEqualWithoutScramble : Prop :=
  ∀ (i : Instr) (s t : State), Inv s → i.wellFormed = true → s.cfgValid = true →
    s.active.d - 1 ≤ s.active.n - s.active.m → (∀ rd rs1 slot, i ≠ .scramble rd rs1 slot) → CarriesEqual s →
    exec i s = .next t → CarriesEqual t

/-! ### The Analyzer and the GuidedScrambler -/

/-- SELECT with a pending candidate set picks the least index among the candidates of lowest metric, records it with
its metric, which fits 32 bits, and changes nothing else (42_analyzer.md R130, R132, R135). -/
def Obligations.SelectPicksTheFirstLowestMetric : Prop :=
  ∀ s : State, Inv s → s.cfgValid = true → s.candValid = true →
    ∃ (t : State) (best : Nat) (c : Word), exec .select s = .next t ∧
      best < s.active.N ∧ s.candWord best = some c ∧ rdsMetric s c < 2 ^ 32 ∧
      (∀ x, x < s.active.N → ∃ w, s.candWord x = some w ∧ rdsMetric s c ≤ rdsMetric s w ∧
        (x < best → rdsMetric s c < rdsMetric s w)) ∧
      t = { s with
        selPending := BitVec.ofNat 4 best
        metric := BitVec.ofNat 32 (rdsMetric s c)
        selValid := true
        errcode := 0
        phase := .idle }

/-- COMMIT with a pending selection emits the selected candidate, adds its weights to RDS with saturation and the
sticky overflow bit, records the index, counts the word modulo 2^32 and clears the two valid bits; nothing else
changes (42_analyzer.md R131, R133). -/
def Obligations.CommitEmitsTheWinner : Prop :=
  ∀ (s : State) (rd : Nat), Inv s → rd < 16 → s.cfgValid = true → s.selValid = true →
    ∃ (t : State) (c : Word) (x : Int), exec (.commit rd) s = .next t ∧
      s.candWord s.selPending.toNat = some c ∧ t.regWord rd = some c ∧
      x = s.rds.toInt + (c.map fun y => 2 * (y : Int) - ((s.active.q : Int) - 1)).sum ∧
      t.rds.toInt = max (-(2 ^ 31)) (min (2 ^ 31 - 1) x) ∧
      t.rdsOvf = (s.rdsOvf || decide (x > 2 ^ 31 - 1 ∨ x < -(2 ^ 31))) ∧
      (∀ i, i ≠ rd → t.len i = s.len i) ∧
      (∀ a, ¬ StoredIn (.wsym rd) s.active.n a → t.mem.read a = s.mem.read a) ∧
      t = { s with
        mem := t.mem
        wlen := t.wlen
        rds := t.rds
        rdsOvf := t.rdsOvf
        sel := s.selPending
        wordcount := BitVec.ofNat 32 (s.wordcount.toNat + 1)
        candValid := false
        selValid := false
        errcode := 0
        phase := .idle }

/-- ENCODE is CANDIDATES, SELECT and COMMIT in one step: with a payload of the right length in range all four complete
with success and leave the same state (42_analyzer.md R134).
The source word is read as log 7 says: a never-written cell counts with its free value and adds one entry to the
record of the model faults, which is no state of the block, and that the command runs on and ends like any other
there is the model's (log 7, log 26). -/
def Obligations.EncodeIsCandidatesSelectCommit : Prop :=
  ∀ (s : State) (rd rs1 : Nat) (p : Word), Inv s → rd < 16 → s.cfgValid = true → Holds s rs1 p →
    p.length = s.active.n - s.active.m →
    ∃ s1 s2 t : State, exec (.candidates rs1) s = .next s1 ∧ exec .select s1 = .next s2 ∧
      exec (.commit rd) s2 = .next t ∧ exec (.encode rd rs1) s = .next t ∧
      t.errcode = 0 ∧ t.candValid = false ∧ t.selValid = false ∧ t.sel = t.selPending ∧ t.sel.toNat < s.active.N ∧
      t.regWord rd = t.candWord t.sel.toNat

/-- SELECT without a candidate set reports NoCandidates, and COMMIT without a selection NoSelection
(42_analyzer.md R132, R133). -/
def Obligations.SelectAndCommitReportTheirErrors : Prop :=
  ∀ (s : State) (rd : Nat), s.cfgValid = true →
    (s.candValid = false → exec .select s = .next (s.failedWith 0x0E)) ∧
    (s.selValid = false → exec (.commit rd) s = .next (s.failedWith 0x0F))

/-! ### The Descrambler and the round trips -/

/-- DECODE of a codeword of length `n` in range, with a unit leading divisor symbol, writes the payload and, in
continuous mode, the next remainder; no other state of the block changes (43_descrambler.md R145, R146).
The source word is read as log 7 says: a never-written cell counts with its free value and adds one entry to the
record of the model faults, which is no state of the block, and that the command runs on and ends like any other
there is the model's (log 7, log 26). -/
def Obligations.DecodeWritesThePayload : Prop :=
  ∀ (s : State) (rd rs1 : Nat) (c p r : Word), Inv s → rd < 16 → s.cfgValid = true → Holds s rs1 c →
    c.length = s.active.n → Nat.gcd (s.active.g.getD 0 0) s.active.q = 1 →
    (p, r) = dsc s.active.q s.active.n s.active.m s.active.d s.active.cont s.active.g c s.descRem →
    ∃ t : State, exec (.decode rd rs1) s = .next t ∧
      p.length = s.active.n - s.active.m ∧ t.regWord rd = some p ∧
      t.descRem = (if s.active.cont = true then r else s.descRem) ∧
      (∀ i, i ≠ rd → t.len i = s.len i) ∧
      (∀ a, ¬ StoredIn (.wsym rd) (s.active.n - s.active.m) a →
        ¬ (s.active.cont = true ∧ StoredIn .descRem (s.active.d - 1) a) → t.mem.read a = s.mem.read a) ∧
      t = { s with
        mem := t.mem, wlen := t.wlen, errcode := 0, phase := .idle, modelFaults := s.recorded (s.regCells rs1) }

/-- DECODE reports a codeword of the wrong length, then the first symbol out of range, whatever the cells after it hold,
then a divisor whose leading symbol is no unit (43_descrambler.md R146, 40_word.md R100, 60_exceptions.md R172).
A never-written cell among those read counts with its free value and is recorded, and the command runs on, which is
the model's (log 7, log 26). -/
def Obligations.DecodeReportsItsErrors : Prop :=
  ∀ (s : State) (rd rs1 j : Nat), s.cfgValid = true →
    (s.len rs1 ≠ s.active.n → exec (.decode rd rs1) s = .next (s.failedWith 0x07)) ∧
    (s.len rs1 = s.active.n →
      (FirstBad s.active.q (s.seenReg rs1) j →
        exec (.decode rd rs1) s = .next (s.failedReading 0x09 ((s.regCells rs1).take (j + 1)))) ∧
      (ValidWord s.active.q (s.seenReg rs1) → Nat.gcd (s.active.g.getD 0 0) s.active.q ≠ 1 →
        exec (.decode rd rs1) s = .next (s.failedReading 0x08 (s.regCells rs1))))

/-- The block-mode round trip: SCRAMBLE of a payload on any slot and DECODE of the codeword it writes both succeed and
give the payload back (43_descrambler.md R147, the spec's own inference, marked there as derived).
That it runs on a payload with never-written cells, each counting with its free value, is the model's (log 7, log
26). -/
def Obligations.BlockRoundTrip : Prop :=
  ∀ (s : State) (rc rd rs1 slot : Nat) (p : Word), Inv s → rc < 16 → rd < 16 → s.cfgValid = true →
    s.active.cont = false → Nat.gcd (s.active.g.getD 0 0) s.active.q = 1 → slot < s.active.N → Holds s rs1 p →
    p.length = s.active.n - s.active.m →
    ∃ t u : State, exec (.scramble rc rs1 slot) s = .next t ∧ exec (.decode rd rc) t = .next u ∧
      t.errcode = 0 ∧ u.errcode = 0 ∧ u.regWord rd = some p

/-- One word of the continuous-mode round trip on a fixed slot: while the remainder is the negated carry of the slot,
SCRAMBLE then DECODE give the payload back, and the remainder is again the negated carry (43_descrambler.md
R148 (a) and the invariant it names, the spec's own inference, marked there as derived).
That it runs on a payload with never-written cells, each counting with its free value, is the model's (log 7, log
26). -/
def Obligations.ContinuousFixedSlotRoundTrip : Prop :=
  ∀ (s : State) (rc rd rs1 slot : Nat) (p : Word), Inv s → rc < 16 → rd < 16 → s.cfgValid = true →
    s.active.cont = true → Nat.gcd (s.active.g.getD 0 0) s.active.q = 1 → slot < s.active.N → Holds s rs1 p →
    p.length = s.active.n - s.active.m → s.descRem = (s.carry slot).map (negq s.active.q) →
    ∃ t u : State, exec (.scramble rc rs1 slot) s = .next t ∧ exec (.decode rd rc) t = .next u ∧
      u.errcode = 0 ∧ u.regWord rd = some p ∧ u.descRem = (u.carry slot).map (negq u.active.q)

/-- One word of the guided continuous-mode round trip with `d - 1 <= n - m`: while all carries are equal and the
remainder is their negation, ENCODE then DECODE give the payload back whichever slot wins, and the carries and the
remainder are again so (43_descrambler.md R148 (b), 41_scrambler.md R125, the spec's own inferences, marked there as
derived).
That it runs on a payload with never-written cells, each counting with its free value, is the model's (log 7, log
26). -/
def Obligations.GuidedContinuousRoundTrip : Prop :=
  ∀ (s : State) (rc rd rs1 : Nat) (p : Word), Inv s → rc < 16 → rd < 16 → s.cfgValid = true →
    s.active.cont = true → Nat.gcd (s.active.g.getD 0 0) s.active.q = 1 → Holds s rs1 p →
    p.length = s.active.n - s.active.m → s.active.d - 1 ≤ s.active.n - s.active.m → CarriesEqual s →
    s.descRem = (s.carry 0).map (negq s.active.q) →
    ∃ t u : State, exec (.encode rc rs1) s = .next t ∧ exec (.decode rd rc) t = .next u ∧
      u.errcode = 0 ∧ u.regWord rd = some p ∧ CarriesEqual u ∧ u.descRem = (u.carry 0).map (negq u.active.q)

/-! ### The host interface -/

/-- The bits of STATUS (10_state.md R27). -/
def Obligations.StatusShowsTheFlags : Prop :=
  ∀ s : State,
    s.status.getLsbD 0 = decide (s.phase = .busy) ∧ s.status.getLsbD 1 = s.cfgValid ∧
    s.status.getLsbD 2 = s.candValid ∧ s.status.getLsbD 3 = s.selValid ∧ s.status.getLsbD 4 = s.rdsOvf ∧
    s.status.getLsbD 5 = s.err ∧ s.status.getLsbD 6 = (s.cfgValid && s.active.cont) ∧
    s.status.getLsbD 7 = false ∧ s.status.extractLsb' 8 8 = s.errcode ∧ s.status.extractLsb' 16 16 = 0

/-- What a read of each register address returns (20_memory.md R52). -/
def Obligations.RegistersReadAtTheirAddresses : Prop :=
  ∀ s : State,
    s.memRead 0x0000 = 0x47534531 ∧ s.memRead 0x0004 = s.status ∧ s.memRead 0x0008 = 0 ∧
    s.memRead 0x000C = s.errinfo ∧ s.memRead 0x0010 = s.sel.setWidth 32 ∧
    s.memRead 0x0014 = s.selPending.setWidth 32 ∧ s.memRead 0x0018 = s.metric ∧ s.memRead 0x001C = s.rds ∧
    s.memRead 0x0020 = s.wordcount ∧ s.memRead 0x0024 = 0x08101040 ∧ s.memRead 0x0040 = s.cfgField.setWidth 32 ∧
    s.memRead 0x0044 = s.cfgCwlen.setWidth 32 ∧ s.memRead 0x0048 = s.cfgAuglen.setWidth 32 ∧
    s.memRead 0x004C = s.cfgDivlen.setWidth 32 ∧ s.memRead 0x0050 = s.cfgNaug.setWidth 32 ∧
    (s.memRead 0x0054).getLsbD 0 = s.cfgContinuous ∧ (s.memRead 0x0054).extractLsb' 1 31 = 0 ∧
    (s.memRead 0x0058).extractLsb' 0 16 = s.cfgAlphabet ∧ (s.memRead 0x0058).extractLsb' 16 8 = s.cfgMetricSel ∧
    (s.memRead 0x0058).extractLsb' 24 8 = 0

/-- What a host read of a symbol cell returns: a written cell's byte zero-extended; a carry or remainder cell's byte
below index `A.d - 1` (and 63), and 0 from there on (20_memory.md R52, 10_state.md R24, R32, R33). -/
def Obligations.SymbolCellsReadAtTheirAddresses : Prop :=
  ∀ (s : State) (x k : Nat) (b : Byte), x < 16 → k < 64 →
    (∀ arr ∈ [CellArray.divisorStg, .augStg x, .wsym x, .cand x], s.mem.read (arr.addr k) = some b →
      s.memRead (BitVec.ofNat 16 (arr.addr k)) = b.setWidth 32) ∧
    (∀ arr ∈ [CellArray.descRem, .slotCarry x], s.mem.read (arr.addr k) = some b →
      s.memRead (BitVec.ofNat 16 (arr.addr k)) =
        if k < s.active.d - 1 ∧ k < 63 then b.setWidth 32 else 0)

/-- A host write to a writable symbol cell stores bits 7:0 in that cell and changes nothing else (the index of the free
values, the model's own, moves on) (10_state.md R24, R29, 20_memory.md R52). -/
def Obligations.SymbolWritesStoreTheLowByte : Prop :=
  ∀ (s : State) (x k : Nat) (v : Word32), x < 16 → k < 64 →
    ∀ arr ∈ [CellArray.divisorStg, .augStg x, .wsym x],
      (s.memWrite (BitVec.ofNat 16 (arr.addr k)) v).mem.read (arr.addr k) = some (v.extractLsb' 0 8) ∧
      (∀ a, a ≠ arr.addr k → (s.memWrite (BitVec.ofNat 16 (arr.addr k)) v).mem.read a = s.mem.read a) ∧
      s.memWrite (BitVec.ofNat 16 (arr.addr k)) v =
        { s with mem := (s.memWrite (BitVec.ofNat 16 (arr.addr k)) v).mem, epoch := s.epoch + 1 }

/-- A host write to `WLEN[i]` takes bits 15:0 when they are at most 64 and is otherwise ignored; bits 31:16 do not
matter; a read returns the length zero-extended; it is 0 after reset (10_state.md R23; the index of the free values,
which moves on, is the model's own). -/
def Obligations.LengthWritesAreLegalised : Prop :=
  ∀ (s : State) (i : Nat) (v : Word32), i < 16 →
    ((v.extractLsb' 0 16).toNat ≤ 64 →
      (s.memWrite (BitVec.ofNat 16 (0x0080 + 4 * i)) v).len i = (v.extractLsb' 0 16).toNat ∧
      (∀ j, j ≠ i → (s.memWrite (BitVec.ofNat 16 (0x0080 + 4 * i)) v).len j = s.len j) ∧
      s.memWrite (BitVec.ofNat 16 (0x0080 + 4 * i)) v =
        { s with wlen := (s.memWrite (BitVec.ofNat 16 (0x0080 + 4 * i)) v).wlen, epoch := s.epoch + 1 }) ∧
    (64 < (v.extractLsb' 0 16).toNat →
      s.memWrite (BitVec.ofNat 16 (0x0080 + 4 * i)) v = { s with epoch := s.epoch + 1 }) ∧
    s.memRead (BitVec.ofNat 16 (0x0080 + 4 * i)) = BitVec.ofNat 32 (s.len i) ∧
    State.reset.len i = 0

/-- Writes to the read-only and the reserved addresses are ignored (only the index of the free values, the model's own,
moves on), the reserved addresses read 0, the reserved bits of the registers read 0 and ignore writes, and no write
changes ERRCODE (20_memory.md R53). -/
def Obligations.ReservedAddressesAndBitsIgnoreWrites : Prop :=
  (∀ (s : State) (a : Addr) (v : Word32), a.toNat % 4 = 0 →
    ((a.toNat = 0 ∨ (0x000C ≤ a.toNat ∧ a.toNat ≤ 0x003C) ∨ (0x005C ≤ a.toNat ∧ a.toNat ≤ 0x007C) ∨
        (0x00C0 ≤ a.toNat ∧ a.toNat ≤ 0x00FC) ∨ (0x0200 ≤ a.toNat ∧ a.toNat ≤ 0x0FFC) ∨ 0x3000 ≤ a.toNat) →
      s.memWrite a v = { s with epoch := s.epoch + 1 }) ∧
    (((0x0028 ≤ a.toNat ∧ a.toNat ≤ 0x003C) ∨ (0x005C ≤ a.toNat ∧ a.toNat ≤ 0x007C) ∨
        (0x00C0 ≤ a.toNat ∧ a.toNat ≤ 0x00FC) ∨ (0x0300 ≤ a.toNat ∧ a.toNat ≤ 0x0FFC) ∨ 0x5000 ≤ a.toNat) →
      s.memRead a = 0)) ∧
  (∀ s : State, (s.memRead 0x0004).getLsbD 7 = false ∧ (s.memRead 0x0004).extractLsb' 16 16 = 0 ∧
    (s.memRead 0x0010).extractLsb' 4 28 = 0 ∧ (s.memRead 0x0014).extractLsb' 4 28 = 0 ∧
    (∀ a ∈ ([0x0040, 0x0044, 0x0048, 0x004C, 0x0050] : List Addr), (s.memRead a).extractLsb' 16 16 = 0) ∧
    (s.memRead 0x0054).extractLsb' 1 31 = 0 ∧ (s.memRead 0x0058).extractLsb' 24 8 = 0) ∧
  (∀ (s : State) (v : Word32),
    (∀ a ∈ ([0x0040, 0x0044, 0x0048, 0x004C, 0x0050] : List Addr), s.memWrite a v = s.memWrite a (v &&& 0xFFFF)) ∧
    s.memWrite 0x0054 v = s.memWrite 0x0054 (v &&& 1) ∧ s.memWrite 0x0058 v = s.memWrite 0x0058 (v &&& 0xFFFFFF) ∧
    s.memWrite 0x0004 v = s.memWrite 0x0004 (v &&& 0x30)) ∧
  ∀ (s : State) (a : Addr) (v : Word32), (s.memWrite a v).errcode = s.errcode

/-- Writes to the configuration registers store their listed fields and nothing else; a write to STATUS clears RDS_OVF
and ERR where bits 4 and 5 are set and nothing else; a write to CMD latches the word and starts a command (10_state.md
R27, R28, R39). -/
def Obligations.RegisterWritesStoreTheirFields : Prop :=
  ∀ (s : State) (v : Word32),
    s.memWrite 0x0040 v = { s with cfgField := v.extractLsb' 0 16, epoch := s.epoch + 1 } ∧
    s.memWrite 0x0044 v = { s with cfgCwlen := v.extractLsb' 0 16, epoch := s.epoch + 1 } ∧
    s.memWrite 0x0048 v = { s with cfgAuglen := v.extractLsb' 0 16, epoch := s.epoch + 1 } ∧
    s.memWrite 0x004C v = { s with cfgDivlen := v.extractLsb' 0 16, epoch := s.epoch + 1 } ∧
    s.memWrite 0x0050 v = { s with cfgNaug := v.extractLsb' 0 16, epoch := s.epoch + 1 } ∧
    s.memWrite 0x0054 v = { s with cfgContinuous := v.getLsbD 0, epoch := s.epoch + 1 } ∧
    s.memWrite 0x0058 v =
      { s with cfgAlphabet := v.extractLsb' 0 16, cfgMetricSel := v.extractLsb' 16 8, epoch := s.epoch + 1 } ∧
    s.memWrite 0x0004 v =
      { s with rdsOvf := s.rdsOvf && !v.getLsbD 4, err := s.err && !v.getLsbD 5, epoch := s.epoch + 1 } ∧
    s.memWrite 0x0008 v =
      { s with
        cmdLatch := v
        phase := .busy
        hostTurns := (s.memWrite 0x0008 v).hostTurns
        epoch := s.epoch + 1 }

/-- The host's step while Idle: an admitted read returns the register's value and changes nothing, an admitted write
has its effect, and the host's next operation comes after it (20_memory.md R51, R55, R58).
That an access takes effect once the engine is Idle, even before a STATUS read has returned BUSY = 0, is the model's
choice (log 25), and so is the host's list (log 1). -/
def Obligations.IdleHostAccessesTakeEffect : Prop :=
  ∀ (s : State) (a : Addr) (v : Word32) (rest : List HostOp), s.phase = .idle → a.toNat % 4 = 0 →
    (s.host = .read 32 a :: rest →
      step s = .next { s with host := rest, reads := ⟨a, s.memRead a⟩ :: s.reads }) ∧
    (s.host = .write 32 a v :: rest → step s = .next (State.memWrite { s with host := rest } a v)) ∧
    (s.host = .read 32 a :: .read 32 a :: rest → ∃ t, step s = .next t ∧
      step t = .next { s with host := rest, reads := ⟨a, s.memRead a⟩ :: ⟨a, s.memRead a⟩ :: s.reads })

/-- The accesses the model refuses: any of another width or alignment, and, while the engine is Busy and the host moves,
any but a STATUS read, which returns STATUS with BUSY = 1 (20_memory.md R51, R56, 60_exceptions.md R177; the count of
the host's turns is the model's, log 2). -/
def Obligations.MeaninglessAccessesAreRefused : Prop :=
  ∀ (s : State) (width : Nat) (a : Addr) (v : Word32) (rest : List HostOp),
    (s.phase = .idle ∨ 0 < s.hostTurns) →
    (¬ (width = 32 ∧ a.toNat % 4 = 0) →
      (s.host = .read width a :: rest → step s = .refused .badAccess) ∧
      (s.host = .write width a v :: rest → step s = .refused .badAccess)) ∧
    (width = 32 → a.toNat % 4 = 0 → s.phase = .busy →
      (s.host = .write width a v :: rest → step s = .refused .accessWhileBusy) ∧
      (a ≠ 0x0004 → s.host = .read width a :: rest → step s = .refused .accessWhileBusy) ∧
      (a = 0x0004 → s.host = .read width a :: rest → s.status.getLsbD 0 = true ∧
        step s = .next { s with
          host := rest, hostTurns := s.hostTurns - 1, reads := ⟨0x0004, s.status⟩ :: s.reads }))

/-- The reset input, in either phase, puts every element of the block at its reset value (70_reset_and_hazards.md R190;
that it lands between steps, as an operation of the host's list, is the model's, log 10; the record of the model faults
is never cleared, 60_exceptions.md R177 (a)).
What the spec gives no reset value is at the model's choice: CMDLATCH 0 (log 4), the active configuration zeros,
which the spec calls meaningless (log 5), and the model's own hostTurns 0, with host and reads kept and epoch moved
on (log 3). -/
def Obligations.ResetInputRestoresReset : Prop :=
  ∀ (s : State) (rest : List HostOp), s.host = .reset :: rest → (s.phase = .idle ∨ 0 < s.hostTurns) →
    step s = .next { State.reset with
      modelFaults := s.modelFaults, host := rest, reads := s.reads, epoch := s.epoch + 1 }

/-- The handshake ends: from Idle, a command word written to CMD and the polling loop after it come to Idle with the
rest of the host's program next, after finitely many steps
(70_reset_and_hazards.md R195, R203; the order of host and engine is a free value of the model, log 2).
That a command with a never-written operand cell ends too is the model's (log 7). -/
def Obligations.HandshakeEnds : Prop :=
  ∀ (s : State) (v : Word32) (rest : List HostOp), s.phase = .idle →
    s.host = .write 32 0x0008 v :: .wait :: rest →
    ∃ (k : Nat) (t : State), Host.Core.run Sys2Proof.core k s = .next t ∧ t.phase = .idle ∧ t.host = rest

/-! ### The invariant -/

/-- The state after reset meets the invariant. -/
def Obligations.ResetMeetsTheInvariant : Prop := Inv State.reset

/-- Every step keeps the invariant: the memory stays canonical, lengths stay in [0, 64], a valid configuration stays
legal, carries and remainder stay 0 outside continuous mode and symbols inside it, a pending candidate set is complete,
a pending selection names a candidate, and ERRCODE stays a code of the table. -/
def Obligations.EveryStepKeepsTheInvariant : Prop :=
  ∀ s t : State, Inv s → step s = .next t → Inv t

/-! ### The functions of the scrambler and the descrambler, written out -/

/-- The scrambling and the descrambling function written out.  Symbol `k` of the full output `F` is the reduced sum of
`u[i] * g[k - i]`, in continuous mode plus carry symbol `k` below `d - 1`; the codeword is `F[0..n)` and the next carry
`F[n..n+d-1)`.  The payload is what follows the first `m` symbols of the quotient of `c ++ zeros(d - 1)`, in continuous
mode plus the old remainder, by `g`, and the next remainder is that division's.  In block mode carry and remainder stay
(41_scrambler.md R121, 43_descrambler.md R145).
Quotient and remainder are given by the division identity of 40_word.md R109 for the division of R103; R109 is the
spec's own inference, marked there as derived. -/
def Obligations.ScramblingFunctionsWrittenOut : Prop :=
  ∀ (q n m d : Nat) (cont : Bool) (g u c old : Word), 2 ≤ q → 2 ≤ d → m < n → g.length = d → u.length = n →
    c.length = n → old.length = d - 1 → ValidWord q g → ValidWord q u → ValidWord q c → ValidWord q old →
    (∀ f : Nat → Nat, (∀ k, f k = ((∑ i ∈ Finset.range (k + 1), u.getD i 0 * g.getD (k - i) 0) +
        if cont = true ∧ k < d - 1 then old.getD k 0 else 0) % q) →
      scr q n d cont g u old = ((List.range n).map f,
        if cont = true then (List.range (d - 1)).map (fun k => f (n + k)) else old)) ∧
    (Nat.gcd (g.getD 0 0) q = 1 →
      ∃ e qt r : Word,
        e = (List.range (n + (d - 1))).map (fun k =>
          ((if k < n then c.getD k 0 else 0) + if cont = true ∧ k < d - 1 then old.getD k 0 else 0) % q) ∧
        qt.length = n ∧ r.length = d - 1 ∧ ValidWord q qt ∧ ValidWord q r ∧
        polyOf q e = polyOf q qt * polyOf q g + polyOf q r ∧
        dsc q n m d cont g c old = (qt.drop m, if cont = true then r else old))
end

