-- ==== Sys2Proof/Laws/Memory.lean ====
section
/-! SUPPORT. The laws of the symbol memory: read after write, the canonical form, and the clearing of the carries. -/

namespace Sys2Proof.Machine

/-! ### Listing a byte -/

theorem Memory.lookup_insert_same (m : Memory) (a : Nat) (b : Byte) :
    Memory.lookup (Memory.insert a b m) a = some b := by
  induction m with
  | nil => simp [Memory.insert, Memory.lookup]
  | cons c m ih =>
    unfold Memory.insert
    split
    · simp [Memory.lookup]
    · split
      · simp [Memory.lookup]
      · rename_i h₁ h₂
        simp [Memory.lookup, ih, Ne.symm h₂]

theorem Memory.lookup_insert_other (m : Memory) {a x : Nat} (b : Byte) (h : x ≠ a) :
    Memory.lookup (Memory.insert a b m) x = Memory.lookup m x := by
  induction m with
  | nil => simp [Memory.insert, Memory.lookup, Ne.symm h]
  | cons c m ih =>
    unfold Memory.insert
    split
    · simp [Memory.lookup, Ne.symm h]
    · split
      · rename_i h₂
        have : c.1 ≠ x := fun e => h (by omega)
        simp [Memory.lookup, this, Ne.symm h]
      · simp [Memory.lookup, ih]

theorem Memory.lookup_filter (m : Memory) (p : Nat → Bool) (x : Nat) :
    Memory.lookup (m.filter fun c => p c.1) x = if p x then Memory.lookup m x else none := by
  induction m with
  | nil => simp [Memory.lookup]
  | cons c m ih =>
    by_cases hc : c.1 = x
    · cases hp : p x <;> simp [Memory.lookup, hc, hp, ih]
    · cases hp : p c.1 <;> simp [Memory.lookup, hc, hp, ih]

/-! ### Reading after writing -/

@[simp] theorem Memory.read_write_same (m : Memory) (a : Nat) (b : Byte) : (m.write a b).read a = some b := by
  unfold Memory.write Memory.read
  by_cases h : Memory.unlisted a = some b
  · rw [if_pos h, Memory.lookup_filter m (fun x => x != a) a]
    simp [h]
  · rw [if_neg h, Memory.lookup_insert_same]

theorem Memory.read_write_other (m : Memory) {a x : Nat} (b : Byte) (h : x ≠ a) :
    (m.write a b).read x = m.read x := by
  unfold Memory.write Memory.read
  by_cases hb : Memory.unlisted a = some b
  · rw [if_pos hb, Memory.lookup_filter m (fun x => x != a) x]
    simp [h]
  · rw [if_neg hb, Memory.lookup_insert_other m b h]

/-- A write is seen at its own address and nowhere else. -/
theorem Memory.read_write (m : Memory) (a x : Nat) (b : Byte) :
    (m.write a b).read x = if x = a then some b else m.read x := by
  split
  · rename_i h; subst h; exact Memory.read_write_same m x b
  · rename_i h; exact Memory.read_write_other m b h

/-- Clearing the carries makes every carry cell 0 and changes no other cell. -/
theorem Memory.read_clearCarries (m : Memory) (a : Nat) :
    m.clearCarries.read a = if isCarryAddr a then some 0 else m.read a := by
  unfold Memory.clearCarries Memory.read
  rw [Memory.lookup_filter m (fun x => !isCarryAddr x) a]
  cases h : isCarryAddr a <;> simp [Memory.unlisted, h]

/-! ### The canonical form -/

theorem Memory.mem_insert {m : Memory} {a : Nat} {b : Byte} {c : Host.Cell} (h : c ∈ Memory.insert a b m) :
    c = (a, b) ∨ c ∈ m := by
  induction m with
  | nil => simpa [Memory.insert] using h
  | cons d m ih =>
    unfold Memory.insert at h
    split at h
    · simpa using h
    · split at h
      · rcases List.mem_cons.1 h with h | h
        · exact .inl h
        · exact .inr (List.mem_cons_of_mem _ h)
      · rcases List.mem_cons.1 h with h | h
        · exact .inr (h ▸ List.mem_cons_self)
        · exact (ih h).imp_right (List.mem_cons_of_mem _)

theorem Memory.insert_rising {m : Memory} (a : Nat) (b : Byte) (h : m.Pairwise fun x y => x.1 < y.1) :
    (Memory.insert a b m).Pairwise fun x y => x.1 < y.1 := by
  induction m with
  | nil => simp [Memory.insert]
  | cons c m ih =>
    have hc := List.pairwise_cons.1 h
    unfold Memory.insert
    split
    · rename_i ha
      refine List.pairwise_cons.2 ⟨fun y hy => ?_, h⟩
      rcases List.mem_cons.1 hy with rfl | hy
      · exact ha
      · exact lt_trans ha (hc.1 y hy)
    · split
      · rename_i _ ha
        exact List.pairwise_cons.2 ⟨fun y hy => ha ▸ hc.1 y hy, hc.2⟩
      · rename_i h₁ h₂
        refine List.pairwise_cons.2 ⟨fun y hy => ?_, ih hc.2⟩
        rcases Memory.mem_insert hy with rfl | hy
        · simp only; omega
        · exact hc.1 y hy

/-- What a write can add to the list of cells: its own address and nothing else. -/
theorem Memory.mem_write {m : Memory} {a : Nat} {b : Byte} {c : Host.Cell} (h : c ∈ m.write a b) :
    c = (a, b) ∨ c ∈ m := by
  unfold Memory.write at h
  split at h
  · exact .inr (List.mem_filter.1 h).1
  · exact Memory.mem_insert h

/-- A write keeps the canonical form. -/
theorem Memory.write_wf {m : Memory} (a : Nat) (b : Byte) (h : m.wf) : (m.write a b).wf := by
  refine ⟨?_, fun c hc => ?_⟩
  · unfold Memory.write
    split
    · exact h.1.filter _
    · exact Memory.insert_rising a b h.1
  · unfold Memory.write at hc
    split at hc
    · exact h.2 c (List.mem_filter.1 hc).1
    · rename_i hb
      rcases Memory.mem_insert hc with rfl | hc
      · exact hb
      · exact h.2 c hc

/-- Clearing the carries keeps the canonical form. -/
theorem Memory.clearCarries_wf {m : Memory} (h : m.wf) : m.clearCarries.wf :=
  ⟨h.1.filter _, fun c hc => h.2 c (List.mem_filter.1 hc).1⟩

/-- A written word keeps the canonical form. -/
theorem storeWord_wf {m : Memory} (a : Nat) (w : Word) (h : m.wf) : (storeWord m a w).wf := by
  induction w generalizing m a with
  | nil => exact h
  | cons x xs ih => exact ih _ (Memory.write_wf _ _ h)

/-- The memory after reset has the canonical form. -/
theorem reset_mem_wf : State.reset.mem.wf := by decide

/-! ### Words in the cells -/

/-- A written word changes only its own cells. -/
theorem read_storeWord_outside (m : Memory) (a : Nat) (w : Word) (x : Nat)
    (h : ∀ j, j < w.length → x ≠ a + 4 * j) : (storeWord m a w).read x = m.read x := by
  induction w generalizing m a with
  | nil => rfl
  | cons y ys ih =>
    have h0 : x ≠ a := by simpa using h 0 (by simp)
    rw [storeWord, ih, Memory.read_write_other _ _ h0]
    intro j hj
    have := h (j + 1) (by simpa using hj)
    omega

/-- Cell `j` of a written word holds its symbol `j`, in 8 bits. -/
theorem read_storeWord_inside (m : Memory) (a : Nat) (w : Word) (j : Nat) (hj : j < w.length) :
    (storeWord m a w).read (a + 4 * j) = some (BitVec.ofNat 8 (w.getD j 0)) := by
  induction w generalizing m a j with
  | nil => simp at hj
  | cons y ys ih =>
    cases j with
    | zero =>
      rw [storeWord, read_storeWord_outside _ _ _ _ (fun j _ => by omega)]
      simp
    | succ j =>
      have e : a + 4 * (j + 1) = a + 4 + 4 * j := by omega
      rw [storeWord, e, ih _ _ j (by simpa using hj)]
      simp

/-- A word of symbols below 256 reads back as it was written. -/
theorem readWord_storeWord (m : Memory) (a : Nat) (w : Word) (h : ∀ x ∈ w, x < 256) :
    readWord (storeWord m a w) a w.length = some w := by
  induction w generalizing m a with
  | nil => rfl
  | cons x xs ih =>
    have hx : x < 256 := h x (by simp)
    have h0 : (storeWord m a (x :: xs)).read a = some (BitVec.ofNat 8 x) := by
      simpa using read_storeWord_inside m a (x :: xs) 0 (by simp)
    rw [List.length_cons, readWord, h0]
    have htail := ih (m.write a (BitVec.ofNat 8 x)) (a + 4) fun y hy => h y (List.mem_cons_of_mem _ hy)
    simp only [storeWord, htail, BitVec.toNat_ofNat, Nat.mod_eq_of_lt (show x < 2 ^ 8 by omega)]

/-- A word reads the same in two memories that agree on its cells. -/
theorem readWord_congr {m m' : Memory} {a : Nat} (k : Nat) (h : ∀ j, j < k → m'.read (a + 4 * j) = m.read (a + 4 * j)) :
    readWord m' a k = readWord m a k := by
  induction k generalizing a with
  | zero => rfl
  | succ k ih =>
    have h0 : m'.read a = m.read a := by simpa using h 0 (by omega)
    have ht : readWord m' (a + 4) k = readWord m (a + 4) k := by
      refine ih fun j hj => ?_
      have := h (j + 1) (by omega)
      rwa [show a + 4 * (j + 1) = a + 4 + 4 * j by omega] at this
    simp only [readWord, h0, ht]

/-- The length of a word read from the cells. -/
theorem readWord_length {m : Memory} {a k : Nat} {w : Word} (h : readWord m a k = some w) : w.length = k := by
  induction k generalizing a w with
  | zero => simp only [readWord, Option.some.injEq] at h; simp [← h]
  | succ k ih =>
    unfold readWord at h
    split at h
    · rename_i hw
      simp only [Option.some.injEq] at h
      subst h
      simp [ih hw]
    · simp at h

/-- The carry of an array is a word of the asked length. -/
@[simp] theorem loadCarry_length (m : Memory) (arr : CellArray) (k : Nat) : (loadCarry m arr k).length = k := by
  simp [loadCarry]

end Sys2Proof.Machine
end

