-- ==== Sys2Proof/Laws/State.lean ====
section
/-! SUPPORT. What each update of the state does to each field, so that no proof unfolds a record update. -/

namespace Sys2Proof.Machine

/-! ### `setReg`: `W[rd] <- w` -/

@[simp] theorem setReg_phase (s : State) (rd : Nat) (w : Word) : (s.setReg rd w).phase = s.phase := rfl
@[simp] theorem setReg_cmdLatch (s : State) (rd : Nat) (w : Word) : (s.setReg rd w).cmdLatch = s.cmdLatch := rfl
@[simp] theorem setReg_wlen (s : State) (rd : Nat) (w : Word) : (s.setReg rd w).wlen = s.wlen.setIfInBounds rd w.length := rfl
@[simp] theorem setReg_mem (s : State) (rd : Nat) (w : Word) : (s.setReg rd w).mem = storeWord s.mem (CellArray.wsym rd).base w := rfl
@[simp] theorem setReg_cfgField (s : State) (rd : Nat) (w : Word) : (s.setReg rd w).cfgField = s.cfgField := rfl
@[simp] theorem setReg_cfgCwlen (s : State) (rd : Nat) (w : Word) : (s.setReg rd w).cfgCwlen = s.cfgCwlen := rfl
@[simp] theorem setReg_cfgAuglen (s : State) (rd : Nat) (w : Word) : (s.setReg rd w).cfgAuglen = s.cfgAuglen := rfl
@[simp] theorem setReg_cfgDivlen (s : State) (rd : Nat) (w : Word) : (s.setReg rd w).cfgDivlen = s.cfgDivlen := rfl
@[simp] theorem setReg_cfgNaug (s : State) (rd : Nat) (w : Word) : (s.setReg rd w).cfgNaug = s.cfgNaug := rfl
@[simp] theorem setReg_cfgContinuous (s : State) (rd : Nat) (w : Word) : (s.setReg rd w).cfgContinuous = s.cfgContinuous := rfl
@[simp] theorem setReg_cfgAlphabet (s : State) (rd : Nat) (w : Word) : (s.setReg rd w).cfgAlphabet = s.cfgAlphabet := rfl
@[simp] theorem setReg_cfgMetricSel (s : State) (rd : Nat) (w : Word) : (s.setReg rd w).cfgMetricSel = s.cfgMetricSel := rfl
@[simp] theorem setReg_active (s : State) (rd : Nat) (w : Word) : (s.setReg rd w).active = s.active := rfl
@[simp] theorem setReg_cfgValid (s : State) (rd : Nat) (w : Word) : (s.setReg rd w).cfgValid = s.cfgValid := rfl
@[simp] theorem setReg_rds (s : State) (rd : Nat) (w : Word) : (s.setReg rd w).rds = s.rds := rfl
@[simp] theorem setReg_rdsOvf (s : State) (rd : Nat) (w : Word) : (s.setReg rd w).rdsOvf = s.rdsOvf := rfl
@[simp] theorem setReg_candValid (s : State) (rd : Nat) (w : Word) : (s.setReg rd w).candValid = s.candValid := rfl
@[simp] theorem setReg_selPending (s : State) (rd : Nat) (w : Word) : (s.setReg rd w).selPending = s.selPending := rfl
@[simp] theorem setReg_metric (s : State) (rd : Nat) (w : Word) : (s.setReg rd w).metric = s.metric := rfl
@[simp] theorem setReg_selValid (s : State) (rd : Nat) (w : Word) : (s.setReg rd w).selValid = s.selValid := rfl
@[simp] theorem setReg_sel (s : State) (rd : Nat) (w : Word) : (s.setReg rd w).sel = s.sel := rfl
@[simp] theorem setReg_wordcount (s : State) (rd : Nat) (w : Word) : (s.setReg rd w).wordcount = s.wordcount := rfl
@[simp] theorem setReg_errcode (s : State) (rd : Nat) (w : Word) : (s.setReg rd w).errcode = s.errcode := rfl
@[simp] theorem setReg_err (s : State) (rd : Nat) (w : Word) : (s.setReg rd w).err = s.err := rfl
@[simp] theorem setReg_errinfo (s : State) (rd : Nat) (w : Word) : (s.setReg rd w).errinfo = s.errinfo := rfl
@[simp] theorem setReg_modelFaults (s : State) (rd : Nat) (w : Word) : (s.setReg rd w).modelFaults = s.modelFaults := rfl
@[simp] theorem setReg_host (s : State) (rd : Nat) (w : Word) : (s.setReg rd w).host = s.host := rfl
@[simp] theorem setReg_reads (s : State) (rd : Nat) (w : Word) : (s.setReg rd w).reads = s.reads := rfl
@[simp] theorem setReg_hostTurns (s : State) (rd : Nat) (w : Word) : (s.setReg rd w).hostTurns = s.hostTurns := rfl
@[simp] theorem setReg_epoch (s : State) (rd : Nat) (w : Word) : (s.setReg rd w).epoch = s.epoch := rfl

/-! ### `setCells`: a write to an array without a length -/

@[simp] theorem setCells_phase (s : State) (arr : CellArray) (w : Word) : (s.setCells arr w).phase = s.phase := rfl
@[simp] theorem setCells_cmdLatch (s : State) (arr : CellArray) (w : Word) : (s.setCells arr w).cmdLatch = s.cmdLatch := rfl
@[simp] theorem setCells_wlen (s : State) (arr : CellArray) (w : Word) : (s.setCells arr w).wlen = s.wlen := rfl
@[simp] theorem setCells_mem (s : State) (arr : CellArray) (w : Word) : (s.setCells arr w).mem = storeWord s.mem arr.base w := rfl
@[simp] theorem setCells_cfgField (s : State) (arr : CellArray) (w : Word) : (s.setCells arr w).cfgField = s.cfgField := rfl
@[simp] theorem setCells_cfgCwlen (s : State) (arr : CellArray) (w : Word) : (s.setCells arr w).cfgCwlen = s.cfgCwlen := rfl
@[simp] theorem setCells_cfgAuglen (s : State) (arr : CellArray) (w : Word) : (s.setCells arr w).cfgAuglen = s.cfgAuglen := rfl
@[simp] theorem setCells_cfgDivlen (s : State) (arr : CellArray) (w : Word) : (s.setCells arr w).cfgDivlen = s.cfgDivlen := rfl
@[simp] theorem setCells_cfgNaug (s : State) (arr : CellArray) (w : Word) : (s.setCells arr w).cfgNaug = s.cfgNaug := rfl
@[simp] theorem setCells_cfgContinuous (s : State) (arr : CellArray) (w : Word) : (s.setCells arr w).cfgContinuous = s.cfgContinuous := rfl
@[simp] theorem setCells_cfgAlphabet (s : State) (arr : CellArray) (w : Word) : (s.setCells arr w).cfgAlphabet = s.cfgAlphabet := rfl
@[simp] theorem setCells_cfgMetricSel (s : State) (arr : CellArray) (w : Word) : (s.setCells arr w).cfgMetricSel = s.cfgMetricSel := rfl
@[simp] theorem setCells_active (s : State) (arr : CellArray) (w : Word) : (s.setCells arr w).active = s.active := rfl
@[simp] theorem setCells_cfgValid (s : State) (arr : CellArray) (w : Word) : (s.setCells arr w).cfgValid = s.cfgValid := rfl
@[simp] theorem setCells_rds (s : State) (arr : CellArray) (w : Word) : (s.setCells arr w).rds = s.rds := rfl
@[simp] theorem setCells_rdsOvf (s : State) (arr : CellArray) (w : Word) : (s.setCells arr w).rdsOvf = s.rdsOvf := rfl
@[simp] theorem setCells_candValid (s : State) (arr : CellArray) (w : Word) : (s.setCells arr w).candValid = s.candValid := rfl
@[simp] theorem setCells_selPending (s : State) (arr : CellArray) (w : Word) : (s.setCells arr w).selPending = s.selPending := rfl
@[simp] theorem setCells_metric (s : State) (arr : CellArray) (w : Word) : (s.setCells arr w).metric = s.metric := rfl
@[simp] theorem setCells_selValid (s : State) (arr : CellArray) (w : Word) : (s.setCells arr w).selValid = s.selValid := rfl
@[simp] theorem setCells_sel (s : State) (arr : CellArray) (w : Word) : (s.setCells arr w).sel = s.sel := rfl
@[simp] theorem setCells_wordcount (s : State) (arr : CellArray) (w : Word) : (s.setCells arr w).wordcount = s.wordcount := rfl
@[simp] theorem setCells_errcode (s : State) (arr : CellArray) (w : Word) : (s.setCells arr w).errcode = s.errcode := rfl
@[simp] theorem setCells_err (s : State) (arr : CellArray) (w : Word) : (s.setCells arr w).err = s.err := rfl
@[simp] theorem setCells_errinfo (s : State) (arr : CellArray) (w : Word) : (s.setCells arr w).errinfo = s.errinfo := rfl
@[simp] theorem setCells_modelFaults (s : State) (arr : CellArray) (w : Word) : (s.setCells arr w).modelFaults = s.modelFaults := rfl
@[simp] theorem setCells_host (s : State) (arr : CellArray) (w : Word) : (s.setCells arr w).host = s.host := rfl
@[simp] theorem setCells_reads (s : State) (arr : CellArray) (w : Word) : (s.setCells arr w).reads = s.reads := rfl
@[simp] theorem setCells_hostTurns (s : State) (arr : CellArray) (w : Word) : (s.setCells arr w).hostTurns = s.hostTurns := rfl
@[simp] theorem setCells_epoch (s : State) (arr : CellArray) (w : Word) : (s.setCells arr w).epoch = s.epoch := rfl

/-! ### `raiseErr`: the error protocol -/

@[simp] theorem raiseErr_phase (s : State) (c : ErrCode) : (s.raiseErr c).phase = .idle := rfl
@[simp] theorem raiseErr_cmdLatch (s : State) (c : ErrCode) : (s.raiseErr c).cmdLatch = s.cmdLatch := rfl
@[simp] theorem raiseErr_wlen (s : State) (c : ErrCode) : (s.raiseErr c).wlen = s.wlen := rfl
@[simp] theorem raiseErr_mem (s : State) (c : ErrCode) : (s.raiseErr c).mem = s.mem := rfl
@[simp] theorem raiseErr_cfgField (s : State) (c : ErrCode) : (s.raiseErr c).cfgField = s.cfgField := rfl
@[simp] theorem raiseErr_cfgCwlen (s : State) (c : ErrCode) : (s.raiseErr c).cfgCwlen = s.cfgCwlen := rfl
@[simp] theorem raiseErr_cfgAuglen (s : State) (c : ErrCode) : (s.raiseErr c).cfgAuglen = s.cfgAuglen := rfl
@[simp] theorem raiseErr_cfgDivlen (s : State) (c : ErrCode) : (s.raiseErr c).cfgDivlen = s.cfgDivlen := rfl
@[simp] theorem raiseErr_cfgNaug (s : State) (c : ErrCode) : (s.raiseErr c).cfgNaug = s.cfgNaug := rfl
@[simp] theorem raiseErr_cfgContinuous (s : State) (c : ErrCode) : (s.raiseErr c).cfgContinuous = s.cfgContinuous := rfl
@[simp] theorem raiseErr_cfgAlphabet (s : State) (c : ErrCode) : (s.raiseErr c).cfgAlphabet = s.cfgAlphabet := rfl
@[simp] theorem raiseErr_cfgMetricSel (s : State) (c : ErrCode) : (s.raiseErr c).cfgMetricSel = s.cfgMetricSel := rfl
@[simp] theorem raiseErr_active (s : State) (c : ErrCode) : (s.raiseErr c).active = s.active := rfl
@[simp] theorem raiseErr_cfgValid (s : State) (c : ErrCode) : (s.raiseErr c).cfgValid = s.cfgValid := rfl
@[simp] theorem raiseErr_rds (s : State) (c : ErrCode) : (s.raiseErr c).rds = s.rds := rfl
@[simp] theorem raiseErr_rdsOvf (s : State) (c : ErrCode) : (s.raiseErr c).rdsOvf = s.rdsOvf := rfl
@[simp] theorem raiseErr_candValid (s : State) (c : ErrCode) : (s.raiseErr c).candValid = s.candValid := rfl
@[simp] theorem raiseErr_selPending (s : State) (c : ErrCode) : (s.raiseErr c).selPending = s.selPending := rfl
@[simp] theorem raiseErr_metric (s : State) (c : ErrCode) : (s.raiseErr c).metric = s.metric := rfl
@[simp] theorem raiseErr_selValid (s : State) (c : ErrCode) : (s.raiseErr c).selValid = s.selValid := rfl
@[simp] theorem raiseErr_sel (s : State) (c : ErrCode) : (s.raiseErr c).sel = s.sel := rfl
@[simp] theorem raiseErr_wordcount (s : State) (c : ErrCode) : (s.raiseErr c).wordcount = s.wordcount := rfl
@[simp] theorem raiseErr_errcode (s : State) (c : ErrCode) : (s.raiseErr c).errcode = c.code := rfl
@[simp] theorem raiseErr_err (s : State) (c : ErrCode) : (s.raiseErr c).err = true := rfl
@[simp] theorem raiseErr_errinfo (s : State) (c : ErrCode) : (s.raiseErr c).errinfo = s.cmdLatch := rfl
@[simp] theorem raiseErr_modelFaults (s : State) (c : ErrCode) : (s.raiseErr c).modelFaults = s.modelFaults := rfl
@[simp] theorem raiseErr_host (s : State) (c : ErrCode) : (s.raiseErr c).host = s.host := rfl
@[simp] theorem raiseErr_reads (s : State) (c : ErrCode) : (s.raiseErr c).reads = s.reads := rfl
@[simp] theorem raiseErr_hostTurns (s : State) (c : ErrCode) : (s.raiseErr c).hostTurns = s.hostTurns := rfl
@[simp] theorem raiseErr_epoch (s : State) (c : ErrCode) : (s.raiseErr c).epoch = s.epoch := rfl

/-! ### `succeed`: the successful end of a command -/

@[simp] theorem succeed_phase (s : State) : s.succeed.phase = .idle := rfl
@[simp] theorem succeed_cmdLatch (s : State) : s.succeed.cmdLatch = s.cmdLatch := rfl
@[simp] theorem succeed_wlen (s : State) : s.succeed.wlen = s.wlen := rfl
@[simp] theorem succeed_mem (s : State) : s.succeed.mem = s.mem := rfl
@[simp] theorem succeed_cfgField (s : State) : s.succeed.cfgField = s.cfgField := rfl
@[simp] theorem succeed_cfgCwlen (s : State) : s.succeed.cfgCwlen = s.cfgCwlen := rfl
@[simp] theorem succeed_cfgAuglen (s : State) : s.succeed.cfgAuglen = s.cfgAuglen := rfl
@[simp] theorem succeed_cfgDivlen (s : State) : s.succeed.cfgDivlen = s.cfgDivlen := rfl
@[simp] theorem succeed_cfgNaug (s : State) : s.succeed.cfgNaug = s.cfgNaug := rfl
@[simp] theorem succeed_cfgContinuous (s : State) : s.succeed.cfgContinuous = s.cfgContinuous := rfl
@[simp] theorem succeed_cfgAlphabet (s : State) : s.succeed.cfgAlphabet = s.cfgAlphabet := rfl
@[simp] theorem succeed_cfgMetricSel (s : State) : s.succeed.cfgMetricSel = s.cfgMetricSel := rfl
@[simp] theorem succeed_active (s : State) : s.succeed.active = s.active := rfl
@[simp] theorem succeed_cfgValid (s : State) : s.succeed.cfgValid = s.cfgValid := rfl
@[simp] theorem succeed_rds (s : State) : s.succeed.rds = s.rds := rfl
@[simp] theorem succeed_rdsOvf (s : State) : s.succeed.rdsOvf = s.rdsOvf := rfl
@[simp] theorem succeed_candValid (s : State) : s.succeed.candValid = s.candValid := rfl
@[simp] theorem succeed_selPending (s : State) : s.succeed.selPending = s.selPending := rfl
@[simp] theorem succeed_metric (s : State) : s.succeed.metric = s.metric := rfl
@[simp] theorem succeed_selValid (s : State) : s.succeed.selValid = s.selValid := rfl
@[simp] theorem succeed_sel (s : State) : s.succeed.sel = s.sel := rfl
@[simp] theorem succeed_wordcount (s : State) : s.succeed.wordcount = s.wordcount := rfl
@[simp] theorem succeed_errcode (s : State) : s.succeed.errcode = 0 := rfl
@[simp] theorem succeed_err (s : State) : s.succeed.err = s.err := rfl
@[simp] theorem succeed_errinfo (s : State) : s.succeed.errinfo = s.errinfo := rfl
@[simp] theorem succeed_modelFaults (s : State) : s.succeed.modelFaults = s.modelFaults := rfl
@[simp] theorem succeed_host (s : State) : s.succeed.host = s.host := rfl
@[simp] theorem succeed_reads (s : State) : s.succeed.reads = s.reads := rfl
@[simp] theorem succeed_hostTurns (s : State) : s.succeed.hostTurns = s.hostTurns := rfl
@[simp] theorem succeed_epoch (s : State) : s.succeed.epoch = s.epoch := rfl

/-! ### `resetRunning`: the running-state reset -/

@[simp] theorem resetRunning_phase (s : State) : s.resetRunning.phase = s.phase := rfl
@[simp] theorem resetRunning_cmdLatch (s : State) : s.resetRunning.cmdLatch = s.cmdLatch := rfl
@[simp] theorem resetRunning_wlen (s : State) : s.resetRunning.wlen = s.wlen := rfl
@[simp] theorem resetRunning_mem (s : State) : s.resetRunning.mem = s.mem.clearCarries := rfl
@[simp] theorem resetRunning_cfgField (s : State) : s.resetRunning.cfgField = s.cfgField := rfl
@[simp] theorem resetRunning_cfgCwlen (s : State) : s.resetRunning.cfgCwlen = s.cfgCwlen := rfl
@[simp] theorem resetRunning_cfgAuglen (s : State) : s.resetRunning.cfgAuglen = s.cfgAuglen := rfl
@[simp] theorem resetRunning_cfgDivlen (s : State) : s.resetRunning.cfgDivlen = s.cfgDivlen := rfl
@[simp] theorem resetRunning_cfgNaug (s : State) : s.resetRunning.cfgNaug = s.cfgNaug := rfl
@[simp] theorem resetRunning_cfgContinuous (s : State) : s.resetRunning.cfgContinuous = s.cfgContinuous := rfl
@[simp] theorem resetRunning_cfgAlphabet (s : State) : s.resetRunning.cfgAlphabet = s.cfgAlphabet := rfl
@[simp] theorem resetRunning_cfgMetricSel (s : State) : s.resetRunning.cfgMetricSel = s.cfgMetricSel := rfl
@[simp] theorem resetRunning_active (s : State) : s.resetRunning.active = s.active := rfl
@[simp] theorem resetRunning_cfgValid (s : State) : s.resetRunning.cfgValid = s.cfgValid := rfl
@[simp] theorem resetRunning_rds (s : State) : s.resetRunning.rds = 0 := rfl
@[simp] theorem resetRunning_rdsOvf (s : State) : s.resetRunning.rdsOvf = s.rdsOvf := rfl
@[simp] theorem resetRunning_candValid (s : State) : s.resetRunning.candValid = false := rfl
@[simp] theorem resetRunning_selPending (s : State) : s.resetRunning.selPending = 0 := rfl
@[simp] theorem resetRunning_metric (s : State) : s.resetRunning.metric = 0 := rfl
@[simp] theorem resetRunning_selValid (s : State) : s.resetRunning.selValid = false := rfl
@[simp] theorem resetRunning_sel (s : State) : s.resetRunning.sel = 0 := rfl
@[simp] theorem resetRunning_wordcount (s : State) : s.resetRunning.wordcount = 0 := rfl
@[simp] theorem resetRunning_errcode (s : State) : s.resetRunning.errcode = s.errcode := rfl
@[simp] theorem resetRunning_err (s : State) : s.resetRunning.err = s.err := rfl
@[simp] theorem resetRunning_errinfo (s : State) : s.resetRunning.errinfo = s.errinfo := rfl
@[simp] theorem resetRunning_modelFaults (s : State) : s.resetRunning.modelFaults = s.modelFaults := rfl
@[simp] theorem resetRunning_host (s : State) : s.resetRunning.host = s.host := rfl
@[simp] theorem resetRunning_reads (s : State) : s.resetRunning.reads = s.reads := rfl
@[simp] theorem resetRunning_hostTurns (s : State) : s.resetRunning.hostTurns = s.hostTurns := rfl
@[simp] theorem resetRunning_epoch (s : State) : s.resetRunning.epoch = s.epoch := rfl

/-! ### `latchConfig`: the latching of a configuration -/

@[simp] theorem latchConfig_phase (s : State) (g : Word) (aug : List Word) : (s.latchConfig g aug).phase = s.phase := rfl
@[simp] theorem latchConfig_cmdLatch (s : State) (g : Word) (aug : List Word) : (s.latchConfig g aug).cmdLatch = s.cmdLatch := rfl
@[simp] theorem latchConfig_wlen (s : State) (g : Word) (aug : List Word) : (s.latchConfig g aug).wlen = s.wlen := rfl
@[simp] theorem latchConfig_mem (s : State) (g : Word) (aug : List Word) : (s.latchConfig g aug).mem = s.mem := rfl
@[simp] theorem latchConfig_cfgField (s : State) (g : Word) (aug : List Word) : (s.latchConfig g aug).cfgField = s.cfgField := rfl
@[simp] theorem latchConfig_cfgCwlen (s : State) (g : Word) (aug : List Word) : (s.latchConfig g aug).cfgCwlen = s.cfgCwlen := rfl
@[simp] theorem latchConfig_cfgAuglen (s : State) (g : Word) (aug : List Word) : (s.latchConfig g aug).cfgAuglen = s.cfgAuglen := rfl
@[simp] theorem latchConfig_cfgDivlen (s : State) (g : Word) (aug : List Word) : (s.latchConfig g aug).cfgDivlen = s.cfgDivlen := rfl
@[simp] theorem latchConfig_cfgNaug (s : State) (g : Word) (aug : List Word) : (s.latchConfig g aug).cfgNaug = s.cfgNaug := rfl
@[simp] theorem latchConfig_cfgContinuous (s : State) (g : Word) (aug : List Word) : (s.latchConfig g aug).cfgContinuous = s.cfgContinuous := rfl
@[simp] theorem latchConfig_cfgAlphabet (s : State) (g : Word) (aug : List Word) : (s.latchConfig g aug).cfgAlphabet = s.cfgAlphabet := rfl
@[simp] theorem latchConfig_cfgMetricSel (s : State) (g : Word) (aug : List Word) : (s.latchConfig g aug).cfgMetricSel = s.cfgMetricSel := rfl
@[simp] theorem latchConfig_active (s : State) (g : Word) (aug : List Word) : (s.latchConfig g aug).active = 
      { q := s.cfgField.toNat, n := s.cfgCwlen.toNat, m := s.cfgAuglen.toNat, d := s.cfgDivlen.toNat
        N := s.cfgNaug.toNat, cont := s.cfgContinuous, metric := s.cfgMetricSel.toNat, g := g, aug := aug } := rfl
@[simp] theorem latchConfig_cfgValid (s : State) (g : Word) (aug : List Word) : (s.latchConfig g aug).cfgValid = true := rfl
@[simp] theorem latchConfig_rds (s : State) (g : Word) (aug : List Word) : (s.latchConfig g aug).rds = s.rds := rfl
@[simp] theorem latchConfig_rdsOvf (s : State) (g : Word) (aug : List Word) : (s.latchConfig g aug).rdsOvf = s.rdsOvf := rfl
@[simp] theorem latchConfig_candValid (s : State) (g : Word) (aug : List Word) : (s.latchConfig g aug).candValid = s.candValid := rfl
@[simp] theorem latchConfig_selPending (s : State) (g : Word) (aug : List Word) : (s.latchConfig g aug).selPending = s.selPending := rfl
@[simp] theorem latchConfig_metric (s : State) (g : Word) (aug : List Word) : (s.latchConfig g aug).metric = s.metric := rfl
@[simp] theorem latchConfig_selValid (s : State) (g : Word) (aug : List Word) : (s.latchConfig g aug).selValid = s.selValid := rfl
@[simp] theorem latchConfig_sel (s : State) (g : Word) (aug : List Word) : (s.latchConfig g aug).sel = s.sel := rfl
@[simp] theorem latchConfig_wordcount (s : State) (g : Word) (aug : List Word) : (s.latchConfig g aug).wordcount = s.wordcount := rfl
@[simp] theorem latchConfig_errcode (s : State) (g : Word) (aug : List Word) : (s.latchConfig g aug).errcode = s.errcode := rfl
@[simp] theorem latchConfig_err (s : State) (g : Word) (aug : List Word) : (s.latchConfig g aug).err = s.err := rfl
@[simp] theorem latchConfig_errinfo (s : State) (g : Word) (aug : List Word) : (s.latchConfig g aug).errinfo = s.errinfo := rfl
@[simp] theorem latchConfig_modelFaults (s : State) (g : Word) (aug : List Word) : (s.latchConfig g aug).modelFaults = s.modelFaults := rfl
@[simp] theorem latchConfig_host (s : State) (g : Word) (aug : List Word) : (s.latchConfig g aug).host = s.host := rfl
@[simp] theorem latchConfig_reads (s : State) (g : Word) (aug : List Word) : (s.latchConfig g aug).reads = s.reads := rfl
@[simp] theorem latchConfig_hostTurns (s : State) (g : Word) (aug : List Word) : (s.latchConfig g aug).hostTurns = s.hostTurns := rfl
@[simp] theorem latchConfig_epoch (s : State) (g : Word) (aug : List Word) : (s.latchConfig g aug).epoch = s.epoch := rfl

/-! ### `clearSticky`: a write to `STATUS` -/

@[simp] theorem clearSticky_phase (s : State) (v : Word32) : (s.clearSticky v).phase = s.phase := rfl
@[simp] theorem clearSticky_cmdLatch (s : State) (v : Word32) : (s.clearSticky v).cmdLatch = s.cmdLatch := rfl
@[simp] theorem clearSticky_wlen (s : State) (v : Word32) : (s.clearSticky v).wlen = s.wlen := rfl
@[simp] theorem clearSticky_mem (s : State) (v : Word32) : (s.clearSticky v).mem = s.mem := rfl
@[simp] theorem clearSticky_cfgField (s : State) (v : Word32) : (s.clearSticky v).cfgField = s.cfgField := rfl
@[simp] theorem clearSticky_cfgCwlen (s : State) (v : Word32) : (s.clearSticky v).cfgCwlen = s.cfgCwlen := rfl
@[simp] theorem clearSticky_cfgAuglen (s : State) (v : Word32) : (s.clearSticky v).cfgAuglen = s.cfgAuglen := rfl
@[simp] theorem clearSticky_cfgDivlen (s : State) (v : Word32) : (s.clearSticky v).cfgDivlen = s.cfgDivlen := rfl
@[simp] theorem clearSticky_cfgNaug (s : State) (v : Word32) : (s.clearSticky v).cfgNaug = s.cfgNaug := rfl
@[simp] theorem clearSticky_cfgContinuous (s : State) (v : Word32) : (s.clearSticky v).cfgContinuous = s.cfgContinuous := rfl
@[simp] theorem clearSticky_cfgAlphabet (s : State) (v : Word32) : (s.clearSticky v).cfgAlphabet = s.cfgAlphabet := rfl
@[simp] theorem clearSticky_cfgMetricSel (s : State) (v : Word32) : (s.clearSticky v).cfgMetricSel = s.cfgMetricSel := rfl
@[simp] theorem clearSticky_active (s : State) (v : Word32) : (s.clearSticky v).active = s.active := rfl
@[simp] theorem clearSticky_cfgValid (s : State) (v : Word32) : (s.clearSticky v).cfgValid = s.cfgValid := rfl
@[simp] theorem clearSticky_rds (s : State) (v : Word32) : (s.clearSticky v).rds = s.rds := rfl
@[simp] theorem clearSticky_rdsOvf (s : State) (v : Word32) : (s.clearSticky v).rdsOvf = (s.rdsOvf && !v.getLsbD 4) := rfl
@[simp] theorem clearSticky_candValid (s : State) (v : Word32) : (s.clearSticky v).candValid = s.candValid := rfl
@[simp] theorem clearSticky_selPending (s : State) (v : Word32) : (s.clearSticky v).selPending = s.selPending := rfl
@[simp] theorem clearSticky_metric (s : State) (v : Word32) : (s.clearSticky v).metric = s.metric := rfl
@[simp] theorem clearSticky_selValid (s : State) (v : Word32) : (s.clearSticky v).selValid = s.selValid := rfl
@[simp] theorem clearSticky_sel (s : State) (v : Word32) : (s.clearSticky v).sel = s.sel := rfl
@[simp] theorem clearSticky_wordcount (s : State) (v : Word32) : (s.clearSticky v).wordcount = s.wordcount := rfl
@[simp] theorem clearSticky_errcode (s : State) (v : Word32) : (s.clearSticky v).errcode = s.errcode := rfl
@[simp] theorem clearSticky_err (s : State) (v : Word32) : (s.clearSticky v).err = (s.err && !v.getLsbD 5) := rfl
@[simp] theorem clearSticky_errinfo (s : State) (v : Word32) : (s.clearSticky v).errinfo = s.errinfo := rfl
@[simp] theorem clearSticky_modelFaults (s : State) (v : Word32) : (s.clearSticky v).modelFaults = s.modelFaults := rfl
@[simp] theorem clearSticky_host (s : State) (v : Word32) : (s.clearSticky v).host = s.host := rfl
@[simp] theorem clearSticky_reads (s : State) (v : Word32) : (s.clearSticky v).reads = s.reads := rfl
@[simp] theorem clearSticky_hostTurns (s : State) (v : Word32) : (s.clearSticky v).hostTurns = s.hostTurns := rfl
@[simp] theorem clearSticky_epoch (s : State) (v : Word32) : (s.clearSticky v).epoch = s.epoch := rfl

/-! ### `startCommand`: a write to `CMD` -/

@[simp] theorem startCommand_phase (s : State) (v : Word32) : (s.startCommand v).phase = .busy := rfl
@[simp] theorem startCommand_cmdLatch (s : State) (v : Word32) : (s.startCommand v).cmdLatch = v := rfl
@[simp] theorem startCommand_wlen (s : State) (v : Word32) : (s.startCommand v).wlen = s.wlen := rfl
@[simp] theorem startCommand_mem (s : State) (v : Word32) : (s.startCommand v).mem = s.mem := rfl
@[simp] theorem startCommand_cfgField (s : State) (v : Word32) : (s.startCommand v).cfgField = s.cfgField := rfl
@[simp] theorem startCommand_cfgCwlen (s : State) (v : Word32) : (s.startCommand v).cfgCwlen = s.cfgCwlen := rfl
@[simp] theorem startCommand_cfgAuglen (s : State) (v : Word32) : (s.startCommand v).cfgAuglen = s.cfgAuglen := rfl
@[simp] theorem startCommand_cfgDivlen (s : State) (v : Word32) : (s.startCommand v).cfgDivlen = s.cfgDivlen := rfl
@[simp] theorem startCommand_cfgNaug (s : State) (v : Word32) : (s.startCommand v).cfgNaug = s.cfgNaug := rfl
@[simp] theorem startCommand_cfgContinuous (s : State) (v : Word32) : (s.startCommand v).cfgContinuous = s.cfgContinuous := rfl
@[simp] theorem startCommand_cfgAlphabet (s : State) (v : Word32) : (s.startCommand v).cfgAlphabet = s.cfgAlphabet := rfl
@[simp] theorem startCommand_cfgMetricSel (s : State) (v : Word32) : (s.startCommand v).cfgMetricSel = s.cfgMetricSel := rfl
@[simp] theorem startCommand_active (s : State) (v : Word32) : (s.startCommand v).active = s.active := rfl
@[simp] theorem startCommand_cfgValid (s : State) (v : Word32) : (s.startCommand v).cfgValid = s.cfgValid := rfl
@[simp] theorem startCommand_rds (s : State) (v : Word32) : (s.startCommand v).rds = s.rds := rfl
@[simp] theorem startCommand_rdsOvf (s : State) (v : Word32) : (s.startCommand v).rdsOvf = s.rdsOvf := rfl
@[simp] theorem startCommand_candValid (s : State) (v : Word32) : (s.startCommand v).candValid = s.candValid := rfl
@[simp] theorem startCommand_selPending (s : State) (v : Word32) : (s.startCommand v).selPending = s.selPending := rfl
@[simp] theorem startCommand_metric (s : State) (v : Word32) : (s.startCommand v).metric = s.metric := rfl
@[simp] theorem startCommand_selValid (s : State) (v : Word32) : (s.startCommand v).selValid = s.selValid := rfl
@[simp] theorem startCommand_sel (s : State) (v : Word32) : (s.startCommand v).sel = s.sel := rfl
@[simp] theorem startCommand_wordcount (s : State) (v : Word32) : (s.startCommand v).wordcount = s.wordcount := rfl
@[simp] theorem startCommand_errcode (s : State) (v : Word32) : (s.startCommand v).errcode = s.errcode := rfl
@[simp] theorem startCommand_err (s : State) (v : Word32) : (s.startCommand v).err = s.err := rfl
@[simp] theorem startCommand_errinfo (s : State) (v : Word32) : (s.startCommand v).errinfo = s.errinfo := rfl
@[simp] theorem startCommand_modelFaults (s : State) (v : Word32) : (s.startCommand v).modelFaults = s.modelFaults := rfl
@[simp] theorem startCommand_host (s : State) (v : Word32) : (s.startCommand v).host = s.host := rfl
@[simp] theorem startCommand_reads (s : State) (v : Word32) : (s.startCommand v).reads = s.reads := rfl
@[simp] theorem startCommand_hostTurns (s : State) (v : Word32) : (s.startCommand v).hostTurns = Config.cmdCycles s.epoch := rfl
@[simp] theorem startCommand_epoch (s : State) (v : Word32) : (s.startCommand v).epoch = s.epoch := rfl

/-! ### `latchCommand`: the placing of a command word -/

@[simp] theorem latchCommand_phase (s : State) (nbits x : Nat) : (s.latchCommand nbits x).phase = .busy := rfl
@[simp] theorem latchCommand_cmdLatch (s : State) (nbits x : Nat) : (s.latchCommand nbits x).cmdLatch = BitVec.ofNat 32 (x % 2 ^ nbits) := rfl
@[simp] theorem latchCommand_wlen (s : State) (nbits x : Nat) : (s.latchCommand nbits x).wlen = s.wlen := rfl
@[simp] theorem latchCommand_mem (s : State) (nbits x : Nat) : (s.latchCommand nbits x).mem = s.mem := rfl
@[simp] theorem latchCommand_cfgField (s : State) (nbits x : Nat) : (s.latchCommand nbits x).cfgField = s.cfgField := rfl
@[simp] theorem latchCommand_cfgCwlen (s : State) (nbits x : Nat) : (s.latchCommand nbits x).cfgCwlen = s.cfgCwlen := rfl
@[simp] theorem latchCommand_cfgAuglen (s : State) (nbits x : Nat) : (s.latchCommand nbits x).cfgAuglen = s.cfgAuglen := rfl
@[simp] theorem latchCommand_cfgDivlen (s : State) (nbits x : Nat) : (s.latchCommand nbits x).cfgDivlen = s.cfgDivlen := rfl
@[simp] theorem latchCommand_cfgNaug (s : State) (nbits x : Nat) : (s.latchCommand nbits x).cfgNaug = s.cfgNaug := rfl
@[simp] theorem latchCommand_cfgContinuous (s : State) (nbits x : Nat) : (s.latchCommand nbits x).cfgContinuous = s.cfgContinuous := rfl
@[simp] theorem latchCommand_cfgAlphabet (s : State) (nbits x : Nat) : (s.latchCommand nbits x).cfgAlphabet = s.cfgAlphabet := rfl
@[simp] theorem latchCommand_cfgMetricSel (s : State) (nbits x : Nat) : (s.latchCommand nbits x).cfgMetricSel = s.cfgMetricSel := rfl
@[simp] theorem latchCommand_active (s : State) (nbits x : Nat) : (s.latchCommand nbits x).active = s.active := rfl
@[simp] theorem latchCommand_cfgValid (s : State) (nbits x : Nat) : (s.latchCommand nbits x).cfgValid = s.cfgValid := rfl
@[simp] theorem latchCommand_rds (s : State) (nbits x : Nat) : (s.latchCommand nbits x).rds = s.rds := rfl
@[simp] theorem latchCommand_rdsOvf (s : State) (nbits x : Nat) : (s.latchCommand nbits x).rdsOvf = s.rdsOvf := rfl
@[simp] theorem latchCommand_candValid (s : State) (nbits x : Nat) : (s.latchCommand nbits x).candValid = s.candValid := rfl
@[simp] theorem latchCommand_selPending (s : State) (nbits x : Nat) : (s.latchCommand nbits x).selPending = s.selPending := rfl
@[simp] theorem latchCommand_metric (s : State) (nbits x : Nat) : (s.latchCommand nbits x).metric = s.metric := rfl
@[simp] theorem latchCommand_selValid (s : State) (nbits x : Nat) : (s.latchCommand nbits x).selValid = s.selValid := rfl
@[simp] theorem latchCommand_sel (s : State) (nbits x : Nat) : (s.latchCommand nbits x).sel = s.sel := rfl
@[simp] theorem latchCommand_wordcount (s : State) (nbits x : Nat) : (s.latchCommand nbits x).wordcount = s.wordcount := rfl
@[simp] theorem latchCommand_errcode (s : State) (nbits x : Nat) : (s.latchCommand nbits x).errcode = s.errcode := rfl
@[simp] theorem latchCommand_err (s : State) (nbits x : Nat) : (s.latchCommand nbits x).err = s.err := rfl
@[simp] theorem latchCommand_errinfo (s : State) (nbits x : Nat) : (s.latchCommand nbits x).errinfo = s.errinfo := rfl
@[simp] theorem latchCommand_modelFaults (s : State) (nbits x : Nat) : (s.latchCommand nbits x).modelFaults = s.modelFaults := rfl
@[simp] theorem latchCommand_host (s : State) (nbits x : Nat) : (s.latchCommand nbits x).host = s.host := rfl
@[simp] theorem latchCommand_reads (s : State) (nbits x : Nat) : (s.latchCommand nbits x).reads = s.reads := rfl
@[simp] theorem latchCommand_hostTurns (s : State) (nbits x : Nat) : (s.latchCommand nbits x).hostTurns = 0 := rfl
@[simp] theorem latchCommand_epoch (s : State) (nbits x : Nat) : (s.latchCommand nbits x).epoch = s.epoch := rfl

/-! ### `recordRead`: the end of a host read -/

@[simp] theorem recordRead_phase (s : State) (a : Addr) : (s.recordRead a).phase = s.phase := rfl
@[simp] theorem recordRead_cmdLatch (s : State) (a : Addr) : (s.recordRead a).cmdLatch = s.cmdLatch := rfl
@[simp] theorem recordRead_wlen (s : State) (a : Addr) : (s.recordRead a).wlen = s.wlen := rfl
@[simp] theorem recordRead_mem (s : State) (a : Addr) : (s.recordRead a).mem = s.mem := rfl
@[simp] theorem recordRead_cfgField (s : State) (a : Addr) : (s.recordRead a).cfgField = s.cfgField := rfl
@[simp] theorem recordRead_cfgCwlen (s : State) (a : Addr) : (s.recordRead a).cfgCwlen = s.cfgCwlen := rfl
@[simp] theorem recordRead_cfgAuglen (s : State) (a : Addr) : (s.recordRead a).cfgAuglen = s.cfgAuglen := rfl
@[simp] theorem recordRead_cfgDivlen (s : State) (a : Addr) : (s.recordRead a).cfgDivlen = s.cfgDivlen := rfl
@[simp] theorem recordRead_cfgNaug (s : State) (a : Addr) : (s.recordRead a).cfgNaug = s.cfgNaug := rfl
@[simp] theorem recordRead_cfgContinuous (s : State) (a : Addr) : (s.recordRead a).cfgContinuous = s.cfgContinuous := rfl
@[simp] theorem recordRead_cfgAlphabet (s : State) (a : Addr) : (s.recordRead a).cfgAlphabet = s.cfgAlphabet := rfl
@[simp] theorem recordRead_cfgMetricSel (s : State) (a : Addr) : (s.recordRead a).cfgMetricSel = s.cfgMetricSel := rfl
@[simp] theorem recordRead_active (s : State) (a : Addr) : (s.recordRead a).active = s.active := rfl
@[simp] theorem recordRead_cfgValid (s : State) (a : Addr) : (s.recordRead a).cfgValid = s.cfgValid := rfl
@[simp] theorem recordRead_rds (s : State) (a : Addr) : (s.recordRead a).rds = s.rds := rfl
@[simp] theorem recordRead_rdsOvf (s : State) (a : Addr) : (s.recordRead a).rdsOvf = s.rdsOvf := rfl
@[simp] theorem recordRead_candValid (s : State) (a : Addr) : (s.recordRead a).candValid = s.candValid := rfl
@[simp] theorem recordRead_selPending (s : State) (a : Addr) : (s.recordRead a).selPending = s.selPending := rfl
@[simp] theorem recordRead_metric (s : State) (a : Addr) : (s.recordRead a).metric = s.metric := rfl
@[simp] theorem recordRead_selValid (s : State) (a : Addr) : (s.recordRead a).selValid = s.selValid := rfl
@[simp] theorem recordRead_sel (s : State) (a : Addr) : (s.recordRead a).sel = s.sel := rfl
@[simp] theorem recordRead_wordcount (s : State) (a : Addr) : (s.recordRead a).wordcount = s.wordcount := rfl
@[simp] theorem recordRead_errcode (s : State) (a : Addr) : (s.recordRead a).errcode = s.errcode := rfl
@[simp] theorem recordRead_err (s : State) (a : Addr) : (s.recordRead a).err = s.err := rfl
@[simp] theorem recordRead_errinfo (s : State) (a : Addr) : (s.recordRead a).errinfo = s.errinfo := rfl
@[simp] theorem recordRead_modelFaults (s : State) (a : Addr) : (s.recordRead a).modelFaults = s.modelFaults := rfl
@[simp] theorem recordRead_host (s : State) (a : Addr) : (s.recordRead a).host = s.host := rfl
@[simp] theorem recordRead_reads (s : State) (a : Addr) : (s.recordRead a).reads = ⟨a, s.memRead a⟩ :: s.reads := rfl
@[simp] theorem recordRead_hostTurns (s : State) (a : Addr) : (s.recordRead a).hostTurns = s.hostTurns := rfl
@[simp] theorem recordRead_epoch (s : State) (a : Addr) : (s.recordRead a).epoch = s.epoch := rfl

/-! ### `failedWith`: the state a failed command leaves -/

@[simp] theorem failedWith_phase (s : State) (c : Byte) : (s.failedWith c).phase = .idle := rfl
@[simp] theorem failedWith_cmdLatch (s : State) (c : Byte) : (s.failedWith c).cmdLatch = s.cmdLatch := rfl
@[simp] theorem failedWith_wlen (s : State) (c : Byte) : (s.failedWith c).wlen = s.wlen := rfl
@[simp] theorem failedWith_mem (s : State) (c : Byte) : (s.failedWith c).mem = s.mem := rfl
@[simp] theorem failedWith_cfgField (s : State) (c : Byte) : (s.failedWith c).cfgField = s.cfgField := rfl
@[simp] theorem failedWith_cfgCwlen (s : State) (c : Byte) : (s.failedWith c).cfgCwlen = s.cfgCwlen := rfl
@[simp] theorem failedWith_cfgAuglen (s : State) (c : Byte) : (s.failedWith c).cfgAuglen = s.cfgAuglen := rfl
@[simp] theorem failedWith_cfgDivlen (s : State) (c : Byte) : (s.failedWith c).cfgDivlen = s.cfgDivlen := rfl
@[simp] theorem failedWith_cfgNaug (s : State) (c : Byte) : (s.failedWith c).cfgNaug = s.cfgNaug := rfl
@[simp] theorem failedWith_cfgContinuous (s : State) (c : Byte) : (s.failedWith c).cfgContinuous = s.cfgContinuous := rfl
@[simp] theorem failedWith_cfgAlphabet (s : State) (c : Byte) : (s.failedWith c).cfgAlphabet = s.cfgAlphabet := rfl
@[simp] theorem failedWith_cfgMetricSel (s : State) (c : Byte) : (s.failedWith c).cfgMetricSel = s.cfgMetricSel := rfl
@[simp] theorem failedWith_active (s : State) (c : Byte) : (s.failedWith c).active = s.active := rfl
@[simp] theorem failedWith_cfgValid (s : State) (c : Byte) : (s.failedWith c).cfgValid = s.cfgValid := rfl
@[simp] theorem failedWith_rds (s : State) (c : Byte) : (s.failedWith c).rds = s.rds := rfl
@[simp] theorem failedWith_rdsOvf (s : State) (c : Byte) : (s.failedWith c).rdsOvf = s.rdsOvf := rfl
@[simp] theorem failedWith_candValid (s : State) (c : Byte) : (s.failedWith c).candValid = s.candValid := rfl
@[simp] theorem failedWith_selPending (s : State) (c : Byte) : (s.failedWith c).selPending = s.selPending := rfl
@[simp] theorem failedWith_metric (s : State) (c : Byte) : (s.failedWith c).metric = s.metric := rfl
@[simp] theorem failedWith_selValid (s : State) (c : Byte) : (s.failedWith c).selValid = s.selValid := rfl
@[simp] theorem failedWith_sel (s : State) (c : Byte) : (s.failedWith c).sel = s.sel := rfl
@[simp] theorem failedWith_wordcount (s : State) (c : Byte) : (s.failedWith c).wordcount = s.wordcount := rfl
@[simp] theorem failedWith_errcode (s : State) (c : Byte) : (s.failedWith c).errcode = c := rfl
@[simp] theorem failedWith_err (s : State) (c : Byte) : (s.failedWith c).err = true := rfl
@[simp] theorem failedWith_errinfo (s : State) (c : Byte) : (s.failedWith c).errinfo = s.cmdLatch := rfl
@[simp] theorem failedWith_modelFaults (s : State) (c : Byte) : (s.failedWith c).modelFaults = s.modelFaults := rfl
@[simp] theorem failedWith_host (s : State) (c : Byte) : (s.failedWith c).host = s.host := rfl
@[simp] theorem failedWith_reads (s : State) (c : Byte) : (s.failedWith c).reads = s.reads := rfl
@[simp] theorem failedWith_hostTurns (s : State) (c : Byte) : (s.failedWith c).hostTurns = s.hostTurns := rfl
@[simp] theorem failedWith_epoch (s : State) (c : Byte) : (s.failedWith c).epoch = s.epoch := rfl

/-! ### `failedReading`: the state of a failed command that has read cells -/

@[simp] theorem failedReading_phase (s : State) (c : Byte) (cells : List Nat) : (s.failedReading c cells).phase = .idle := rfl
@[simp] theorem failedReading_cmdLatch (s : State) (c : Byte) (cells : List Nat) : (s.failedReading c cells).cmdLatch = s.cmdLatch := rfl
@[simp] theorem failedReading_wlen (s : State) (c : Byte) (cells : List Nat) : (s.failedReading c cells).wlen = s.wlen := rfl
@[simp] theorem failedReading_mem (s : State) (c : Byte) (cells : List Nat) : (s.failedReading c cells).mem = s.mem := rfl
@[simp] theorem failedReading_cfgField (s : State) (c : Byte) (cells : List Nat) : (s.failedReading c cells).cfgField = s.cfgField := rfl
@[simp] theorem failedReading_cfgCwlen (s : State) (c : Byte) (cells : List Nat) : (s.failedReading c cells).cfgCwlen = s.cfgCwlen := rfl
@[simp] theorem failedReading_cfgAuglen (s : State) (c : Byte) (cells : List Nat) : (s.failedReading c cells).cfgAuglen = s.cfgAuglen := rfl
@[simp] theorem failedReading_cfgDivlen (s : State) (c : Byte) (cells : List Nat) : (s.failedReading c cells).cfgDivlen = s.cfgDivlen := rfl
@[simp] theorem failedReading_cfgNaug (s : State) (c : Byte) (cells : List Nat) : (s.failedReading c cells).cfgNaug = s.cfgNaug := rfl
@[simp] theorem failedReading_cfgContinuous (s : State) (c : Byte) (cells : List Nat) : (s.failedReading c cells).cfgContinuous = s.cfgContinuous := rfl
@[simp] theorem failedReading_cfgAlphabet (s : State) (c : Byte) (cells : List Nat) : (s.failedReading c cells).cfgAlphabet = s.cfgAlphabet := rfl
@[simp] theorem failedReading_cfgMetricSel (s : State) (c : Byte) (cells : List Nat) : (s.failedReading c cells).cfgMetricSel = s.cfgMetricSel := rfl
@[simp] theorem failedReading_active (s : State) (c : Byte) (cells : List Nat) : (s.failedReading c cells).active = s.active := rfl
@[simp] theorem failedReading_cfgValid (s : State) (c : Byte) (cells : List Nat) : (s.failedReading c cells).cfgValid = s.cfgValid := rfl
@[simp] theorem failedReading_rds (s : State) (c : Byte) (cells : List Nat) : (s.failedReading c cells).rds = s.rds := rfl
@[simp] theorem failedReading_rdsOvf (s : State) (c : Byte) (cells : List Nat) : (s.failedReading c cells).rdsOvf = s.rdsOvf := rfl
@[simp] theorem failedReading_candValid (s : State) (c : Byte) (cells : List Nat) : (s.failedReading c cells).candValid = s.candValid := rfl
@[simp] theorem failedReading_selPending (s : State) (c : Byte) (cells : List Nat) : (s.failedReading c cells).selPending = s.selPending := rfl
@[simp] theorem failedReading_metric (s : State) (c : Byte) (cells : List Nat) : (s.failedReading c cells).metric = s.metric := rfl
@[simp] theorem failedReading_selValid (s : State) (c : Byte) (cells : List Nat) : (s.failedReading c cells).selValid = s.selValid := rfl
@[simp] theorem failedReading_sel (s : State) (c : Byte) (cells : List Nat) : (s.failedReading c cells).sel = s.sel := rfl
@[simp] theorem failedReading_wordcount (s : State) (c : Byte) (cells : List Nat) : (s.failedReading c cells).wordcount = s.wordcount := rfl
@[simp] theorem failedReading_errcode (s : State) (c : Byte) (cells : List Nat) : (s.failedReading c cells).errcode = c := rfl
@[simp] theorem failedReading_err (s : State) (c : Byte) (cells : List Nat) : (s.failedReading c cells).err = true := rfl
@[simp] theorem failedReading_errinfo (s : State) (c : Byte) (cells : List Nat) : (s.failedReading c cells).errinfo = s.cmdLatch := rfl
@[simp] theorem failedReading_modelFaults (s : State) (c : Byte) (cells : List Nat) : (s.failedReading c cells).modelFaults = s.recorded cells := rfl
@[simp] theorem failedReading_host (s : State) (c : Byte) (cells : List Nat) : (s.failedReading c cells).host = s.host := rfl
@[simp] theorem failedReading_reads (s : State) (c : Byte) (cells : List Nat) : (s.failedReading c cells).reads = s.reads := rfl
@[simp] theorem failedReading_hostTurns (s : State) (c : Byte) (cells : List Nat) : (s.failedReading c cells).hostTurns = s.hostTurns := rfl
@[simp] theorem failedReading_epoch (s : State) (c : Byte) (cells : List Nat) : (s.failedReading c cells).epoch = s.epoch := rfl

/-! ### `updateRds`: the update of the running digital sum -/

@[simp] theorem updateRds_phase (s : State) (c : Word) : (s.updateRds c).phase = s.phase := by
  unfold State.updateRds; dsimp only; split
  · rfl
  · split <;> rfl
@[simp] theorem updateRds_cmdLatch (s : State) (c : Word) : (s.updateRds c).cmdLatch = s.cmdLatch := by
  unfold State.updateRds; dsimp only; split
  · rfl
  · split <;> rfl
@[simp] theorem updateRds_wlen (s : State) (c : Word) : (s.updateRds c).wlen = s.wlen := by
  unfold State.updateRds; dsimp only; split
  · rfl
  · split <;> rfl
@[simp] theorem updateRds_mem (s : State) (c : Word) : (s.updateRds c).mem = s.mem := by
  unfold State.updateRds; dsimp only; split
  · rfl
  · split <;> rfl
@[simp] theorem updateRds_cfgField (s : State) (c : Word) : (s.updateRds c).cfgField = s.cfgField := by
  unfold State.updateRds; dsimp only; split
  · rfl
  · split <;> rfl
@[simp] theorem updateRds_cfgCwlen (s : State) (c : Word) : (s.updateRds c).cfgCwlen = s.cfgCwlen := by
  unfold State.updateRds; dsimp only; split
  · rfl
  · split <;> rfl
@[simp] theorem updateRds_cfgAuglen (s : State) (c : Word) : (s.updateRds c).cfgAuglen = s.cfgAuglen := by
  unfold State.updateRds; dsimp only; split
  · rfl
  · split <;> rfl
@[simp] theorem updateRds_cfgDivlen (s : State) (c : Word) : (s.updateRds c).cfgDivlen = s.cfgDivlen := by
  unfold State.updateRds; dsimp only; split
  · rfl
  · split <;> rfl
@[simp] theorem updateRds_cfgNaug (s : State) (c : Word) : (s.updateRds c).cfgNaug = s.cfgNaug := by
  unfold State.updateRds; dsimp only; split
  · rfl
  · split <;> rfl
@[simp] theorem updateRds_cfgContinuous (s : State) (c : Word) : (s.updateRds c).cfgContinuous = s.cfgContinuous := by
  unfold State.updateRds; dsimp only; split
  · rfl
  · split <;> rfl
@[simp] theorem updateRds_cfgAlphabet (s : State) (c : Word) : (s.updateRds c).cfgAlphabet = s.cfgAlphabet := by
  unfold State.updateRds; dsimp only; split
  · rfl
  · split <;> rfl
@[simp] theorem updateRds_cfgMetricSel (s : State) (c : Word) : (s.updateRds c).cfgMetricSel = s.cfgMetricSel := by
  unfold State.updateRds; dsimp only; split
  · rfl
  · split <;> rfl
@[simp] theorem updateRds_active (s : State) (c : Word) : (s.updateRds c).active = s.active := by
  unfold State.updateRds; dsimp only; split
  · rfl
  · split <;> rfl
@[simp] theorem updateRds_cfgValid (s : State) (c : Word) : (s.updateRds c).cfgValid = s.cfgValid := by
  unfold State.updateRds; dsimp only; split
  · rfl
  · split <;> rfl
@[simp] theorem updateRds_candValid (s : State) (c : Word) : (s.updateRds c).candValid = s.candValid := by
  unfold State.updateRds; dsimp only; split
  · rfl
  · split <;> rfl
@[simp] theorem updateRds_selPending (s : State) (c : Word) : (s.updateRds c).selPending = s.selPending := by
  unfold State.updateRds; dsimp only; split
  · rfl
  · split <;> rfl
@[simp] theorem updateRds_metric (s : State) (c : Word) : (s.updateRds c).metric = s.metric := by
  unfold State.updateRds; dsimp only; split
  · rfl
  · split <;> rfl
@[simp] theorem updateRds_selValid (s : State) (c : Word) : (s.updateRds c).selValid = s.selValid := by
  unfold State.updateRds; dsimp only; split
  · rfl
  · split <;> rfl
@[simp] theorem updateRds_sel (s : State) (c : Word) : (s.updateRds c).sel = s.sel := by
  unfold State.updateRds; dsimp only; split
  · rfl
  · split <;> rfl
@[simp] theorem updateRds_wordcount (s : State) (c : Word) : (s.updateRds c).wordcount = s.wordcount := by
  unfold State.updateRds; dsimp only; split
  · rfl
  · split <;> rfl
@[simp] theorem updateRds_errcode (s : State) (c : Word) : (s.updateRds c).errcode = s.errcode := by
  unfold State.updateRds; dsimp only; split
  · rfl
  · split <;> rfl
@[simp] theorem updateRds_err (s : State) (c : Word) : (s.updateRds c).err = s.err := by
  unfold State.updateRds; dsimp only; split
  · rfl
  · split <;> rfl
@[simp] theorem updateRds_errinfo (s : State) (c : Word) : (s.updateRds c).errinfo = s.errinfo := by
  unfold State.updateRds; dsimp only; split
  · rfl
  · split <;> rfl
@[simp] theorem updateRds_modelFaults (s : State) (c : Word) : (s.updateRds c).modelFaults = s.modelFaults := by
  unfold State.updateRds; dsimp only; split
  · rfl
  · split <;> rfl
@[simp] theorem updateRds_host (s : State) (c : Word) : (s.updateRds c).host = s.host := by
  unfold State.updateRds; dsimp only; split
  · rfl
  · split <;> rfl
@[simp] theorem updateRds_reads (s : State) (c : Word) : (s.updateRds c).reads = s.reads := by
  unfold State.updateRds; dsimp only; split
  · rfl
  · split <;> rfl
@[simp] theorem updateRds_hostTurns (s : State) (c : Word) : (s.updateRds c).hostTurns = s.hostTurns := by
  unfold State.updateRds; dsimp only; split
  · rfl
  · split <;> rfl
@[simp] theorem updateRds_epoch (s : State) (c : Word) : (s.updateRds c).epoch = s.epoch := by
  unfold State.updateRds; dsimp only; split
  · rfl
  · split <;> rfl

/-! ### `recordFault`: the record of a model fault -/

@[simp] theorem recordFault_phase (s : State) (u : Option Nat) : (s.recordFault u).phase = s.phase := by
  cases u <;> rfl
@[simp] theorem recordFault_cmdLatch (s : State) (u : Option Nat) : (s.recordFault u).cmdLatch = s.cmdLatch := by
  cases u <;> rfl
@[simp] theorem recordFault_wlen (s : State) (u : Option Nat) : (s.recordFault u).wlen = s.wlen := by
  cases u <;> rfl
@[simp] theorem recordFault_mem (s : State) (u : Option Nat) : (s.recordFault u).mem = s.mem := by
  cases u <;> rfl
@[simp] theorem recordFault_cfgField (s : State) (u : Option Nat) : (s.recordFault u).cfgField = s.cfgField := by
  cases u <;> rfl
@[simp] theorem recordFault_cfgCwlen (s : State) (u : Option Nat) : (s.recordFault u).cfgCwlen = s.cfgCwlen := by
  cases u <;> rfl
@[simp] theorem recordFault_cfgAuglen (s : State) (u : Option Nat) : (s.recordFault u).cfgAuglen = s.cfgAuglen := by
  cases u <;> rfl
@[simp] theorem recordFault_cfgDivlen (s : State) (u : Option Nat) : (s.recordFault u).cfgDivlen = s.cfgDivlen := by
  cases u <;> rfl
@[simp] theorem recordFault_cfgNaug (s : State) (u : Option Nat) : (s.recordFault u).cfgNaug = s.cfgNaug := by
  cases u <;> rfl
@[simp] theorem recordFault_cfgContinuous (s : State) (u : Option Nat) : (s.recordFault u).cfgContinuous = s.cfgContinuous := by
  cases u <;> rfl
@[simp] theorem recordFault_cfgAlphabet (s : State) (u : Option Nat) : (s.recordFault u).cfgAlphabet = s.cfgAlphabet := by
  cases u <;> rfl
@[simp] theorem recordFault_cfgMetricSel (s : State) (u : Option Nat) : (s.recordFault u).cfgMetricSel = s.cfgMetricSel := by
  cases u <;> rfl
@[simp] theorem recordFault_active (s : State) (u : Option Nat) : (s.recordFault u).active = s.active := by
  cases u <;> rfl
@[simp] theorem recordFault_cfgValid (s : State) (u : Option Nat) : (s.recordFault u).cfgValid = s.cfgValid := by
  cases u <;> rfl
@[simp] theorem recordFault_rds (s : State) (u : Option Nat) : (s.recordFault u).rds = s.rds := by
  cases u <;> rfl
@[simp] theorem recordFault_rdsOvf (s : State) (u : Option Nat) : (s.recordFault u).rdsOvf = s.rdsOvf := by
  cases u <;> rfl
@[simp] theorem recordFault_candValid (s : State) (u : Option Nat) : (s.recordFault u).candValid = s.candValid := by
  cases u <;> rfl
@[simp] theorem recordFault_selPending (s : State) (u : Option Nat) : (s.recordFault u).selPending = s.selPending := by
  cases u <;> rfl
@[simp] theorem recordFault_metric (s : State) (u : Option Nat) : (s.recordFault u).metric = s.metric := by
  cases u <;> rfl
@[simp] theorem recordFault_selValid (s : State) (u : Option Nat) : (s.recordFault u).selValid = s.selValid := by
  cases u <;> rfl
@[simp] theorem recordFault_sel (s : State) (u : Option Nat) : (s.recordFault u).sel = s.sel := by
  cases u <;> rfl
@[simp] theorem recordFault_wordcount (s : State) (u : Option Nat) : (s.recordFault u).wordcount = s.wordcount := by
  cases u <;> rfl
@[simp] theorem recordFault_errcode (s : State) (u : Option Nat) : (s.recordFault u).errcode = s.errcode := by
  cases u <;> rfl
@[simp] theorem recordFault_err (s : State) (u : Option Nat) : (s.recordFault u).err = s.err := by
  cases u <;> rfl
@[simp] theorem recordFault_errinfo (s : State) (u : Option Nat) : (s.recordFault u).errinfo = s.errinfo := by
  cases u <;> rfl
@[simp] theorem recordFault_host (s : State) (u : Option Nat) : (s.recordFault u).host = s.host := by
  cases u <;> rfl
@[simp] theorem recordFault_reads (s : State) (u : Option Nat) : (s.recordFault u).reads = s.reads := by
  cases u <;> rfl
@[simp] theorem recordFault_hostTurns (s : State) (u : Option Nat) : (s.recordFault u).hostTurns = s.hostTurns := by
  cases u <;> rfl
@[simp] theorem recordFault_epoch (s : State) (u : Option Nat) : (s.recordFault u).epoch = s.epoch := by
  cases u <;> rfl
@[simp] theorem recordFault_none (s : State) : s.recordFault none = s := rfl
@[simp] theorem recordFault_some (s : State) (a : Nat) :
    s.recordFault (some a) = { s with modelFaults := ⟨s.cmdLatch, a⟩ :: s.modelFaults } := rfl

end Sys2Proof.Machine
end

