-- ==== Sys2Proof/Laws/Operands.lean ====
section
/-! SUPPORT. What reading the operands of a command can do, said once: the sequencing of checks, the words a command
reads, `check_syms`, and the record of the model fault. -/

namespace Sys2Proof.Machine

/-! ### Sequencing checks -/

@[simp] theorem andThen_done {α β : Type} (a : α) (f : α → Checked β) : (done a).andThen f = f a := by
  simp [done, Checked.andThen]

@[simp] theorem andThen_raise {α β : Type} (c : ErrCode) (f : α → Checked β) :
    ((raise c : Checked α).andThen f) = raise c := rfl

@[simp] theorem andThen_ok {α β : Type} (u : Option Nat) (a : α) (f : α → Checked β) :
    (Checked.mk u (.ok a)).andThen f = ⟨u.or (f a).unwritten, (f a).result⟩ := rfl

@[simp] theorem andThen_error {α β : Type} (u : Option Nat) (c : ErrCode) (f : α → Checked β) :
    (Checked.mk u (.error c : Except ErrCode α)).andThen f = ⟨u, .error c⟩ := rfl

@[simp] theorem done_unwritten {α : Type} (a : α) : (done a).unwritten = none := rfl
@[simp] theorem done_result {α : Type} (a : α) : (done a).result = .ok a := rfl
@[simp] theorem raise_unwritten {α : Type} (c : ErrCode) : (raise c : Checked α).unwritten = none := rfl
@[simp] theorem raise_result {α : Type} (c : ErrCode) : (raise c : Checked α).result = .error c := rfl

/-- A sequence has a result exactly when both its parts do. -/
theorem andThen_ok_iff {α β : Type} {x : Checked α} {f : α → Checked β} {b : β} :
    (x.andThen f).result = .ok b ↔ ∃ a, x.result = .ok a ∧ (f a).result = .ok b := by
  unfold Checked.andThen
  cases x.result <;> simp

/-- A sequence raises an error exactly when its first part does, or its second after the first had a result. -/
theorem andThen_error_iff {α β : Type} {x : Checked α} {f : α → Checked β} {c : ErrCode} :
    (x.andThen f).result = .error c ↔ x.result = .error c ∨ ∃ a, x.result = .ok a ∧ (f a).result = .error c := by
  unfold Checked.andThen
  cases x.result <;> simp

/-- A never-written cell that a sequence reads is read by one of its parts. -/
theorem andThen_unwritten {α β : Type} {x : Checked α} {f : α → Checked β} {u : Nat}
    (h : (x.andThen f).unwritten = some u) :
    x.unwritten = some u ∨ ∃ a, x.result = .ok a ∧ (f a).unwritten = some u := by
  unfold Checked.andThen at h
  cases hr : x.result with
  | error c => simp only [hr] at h; exact .inl h
  | ok a =>
    simp only [hr] at h
    cases hu : x.unwritten with
    | some v => simp only [hu, Option.some_or] at h; exact .inl h
    | none => simp only [hu, Option.none_or] at h; exact .inr ⟨a, rfl, h⟩

theorem raise_ne_ok {α : Type} {c : ErrCode} {a : α} : (raise c : Checked α).result ≠ .ok a := by simp

/-- A failing check in front of a rule. -/
theorem ite_raise_ok_iff {α : Type} {p : Prop} [Decidable p] {c : ErrCode} {x : Checked α} {a : α} :
    (if p then raise c else x).result = .ok a ↔ ¬ p ∧ x.result = .ok a := by
  split <;> simp_all

/-! ### The words a command reads -/

@[simp] theorem cellsFrom_length (a k : Nat) : (cellsFrom a k).length = k := by
  induction k generalizing a with
  | zero => rfl
  | succ k ih => simp [cellsFrom, ih]

theorem mem_cellsFrom {a k x : Nat} : x ∈ cellsFrom a k ↔ ∃ j, j < k ∧ x = a + 4 * j := by
  induction k generalizing a with
  | zero => simp [cellsFrom]
  | succ k ih =>
    simp only [cellsFrom, List.mem_cons, ih]
    constructor
    · rintro (rfl | ⟨j, hj, rfl⟩)
      · exact ⟨0, by omega, by omega⟩
      · exact ⟨j + 1, by omega, by omega⟩
    · rintro ⟨j, hj, rfl⟩
      cases j with
      | zero => exact .inl (by omega)
      | succ j => exact .inr ⟨j, by omega, by omega⟩

@[simp] theorem seenWord_length (s : State) (a k : Nat) : (s.seenWord a k).length = k := by simp [State.seenWord]

@[simp] theorem seenReg_length (s : State) (i : Nat) : (s.seenReg i).length = s.len i := seenWord_length _ _ _

@[simp] theorem regCells_length (s : State) (i : Nat) : (s.regCells i).length = s.len i := cellsFrom_length _ _

theorem Holds.length {s : State} {i : Nat} {w : Word} (h : Holds s i w) : w.length = s.len i := by
  rw [← h.value, seenReg_length]

theorem seenWord_succ (s : State) (a k : Nat) :
    s.seenWord a (k + 1) = (s.seen a).toNat :: s.seenWord (a + 4) k := rfl

/-- Written cells are read as they stand. -/
theorem seenWord_of_readWord {s : State} {a k : Nat} {w : Word} (h : readWord s.mem a k = some w) :
    s.seenWord a k = w := by
  induction k generalizing a w with
  | zero => simpa [readWord, State.seenWord, cellsFrom] using h
  | succ k ih =>
    unfold readWord at h
    split at h
    · rename_i b v hb hv
      rw [seenWord_succ, ih hv]
      simpa [State.seen, hb] using h
    · cases h

theorem seenReg_of_regWord {s : State} {i : Nat} {w : Word} (h : s.regWord i = some w) : s.seenReg i = w :=
  seenWord_of_readWord h

/-- A written word holds no cell to record. -/
theorem firstUnwritten_of_readWord {s : State} {a k : Nat} {w : Word} (h : readWord s.mem a k = some w) :
    s.firstUnwritten (cellsFrom a k) = none := by
  induction k generalizing a w with
  | zero => rfl
  | succ k ih =>
    unfold readWord at h
    split at h
    · rename_i b v hb hv
      have := ih hv
      simp only [State.firstUnwritten] at this ⊢
      simp [cellsFrom, hb, this]
    · cases h

theorem firstUnwritten_append (s : State) (l r : List Nat) :
    s.firstUnwritten (l ++ r) = (s.firstUnwritten l).or (s.firstUnwritten r) := by
  simp [State.firstUnwritten, List.find?_append]

@[simp] theorem firstUnwritten_nil (s : State) : s.firstUnwritten [] = none := rfl

/-- The record is that of the first never-written cell. -/
@[simp] theorem recordFault_modelFaults (s t : State) (cells : List Nat) (hc : t.cmdLatch = s.cmdLatch)
    (hm : t.modelFaults = s.modelFaults) : (t.recordFault (s.firstUnwritten cells)).modelFaults = s.recorded cells := by
  unfold State.recordFault State.recorded
  cases s.firstUnwritten cells <;> simp [hc, hm]

/-- A command that reads only written cells records nothing. -/
theorem recorded_of_none {s : State} {cells : List Nat} (h : s.firstUnwritten cells = none) :
    s.recorded cells = s.modelFaults := by
  simp [State.recorded, h]

/-! ### `check_syms` -/

theorem readCell_eq (s : State) (a : Nat) : s.readCell a = ⟨s.firstUnwritten [a], .ok (s.seen a)⟩ := by
  unfold State.readCell State.firstUnwritten
  by_cases h : s.mem.read a = none <;> simp [h]

theorem firstUnwritten_cons (s : State) (a : Nat) (l : List Nat) :
    s.firstUnwritten (a :: l) = (s.firstUnwritten [a]).or (s.firstUnwritten l) := firstUnwritten_append s [a] l

/-- `check_syms` of symbols in range answers the word and has read every cell. -/
theorem checkSyms_valid {q : Nat} {s : State} {a k : Nat} (h : ValidWord q (s.seenWord a k)) :
    checkSyms q s a k = ⟨s.firstUnwritten (cellsFrom a k), .ok (s.seenWord a k)⟩ := by
  induction k generalizing a with
  | zero => rfl
  | succ k ih =>
    rw [seenWord_succ] at h
    have h0 : (s.seen a).toNat < q := h _ (by simp)
    have ht := ih (a := a + 4) fun x hx => h x (List.mem_cons_of_mem _ hx)
    rw [checkSyms, readCell_eq, andThen_ok, if_pos h0, ht, cellsFrom, seenWord_succ, firstUnwritten_cons s a (cellsFrom (a + 4) k)]
    simp

/-- `check_syms` of a word with a symbol out of range raises the error at the first of them, and has read the cells up
to it. -/
theorem checkSyms_bad {q : Nat} {s : State} {a k j : Nat} (h : FirstBad q (s.seenWord a k) j) :
    checkSyms q s a k = ⟨s.firstUnwritten ((cellsFrom a k).take (j + 1)), .error .symbolOutOfRange⟩ := by
  induction k generalizing a j with
  | zero => simpa using h.inside
  | succ k ih =>
    obtain ⟨hj, hb, hq⟩ := h
    rw [seenWord_succ] at hj hb hq
    rw [checkSyms, readCell_eq, andThen_ok]
    cases j with
    | zero =>
      have : ¬ (s.seen a).toNat < q := by simpa using hq
      simp [if_neg this, cellsFrom]
    | succ j =>
      have h0 : (s.seen a).toNat < q := by simpa using hb 0 (by omega)
      have ht := ih (a := a + 4) (j := j) ⟨by simpa using hj, fun i hi => by simpa using hb (i + 1) (by omega),
        by simpa using hq⟩
      rw [if_pos h0, ht, andThen_error, cellsFrom, List.take_succ_cons,
        firstUnwritten_cons s a (List.take (j + 1) (cellsFrom (a + 4) k))]

/-- A word is in range, or has a first symbol out of range. -/
theorem valid_or_firstBad (q : Nat) (w : Word) : ValidWord q w ∨ ∃ j, FirstBad q w j := by
  induction w with
  | nil => exact .inl fun x hx => by cases hx
  | cons x xs ih =>
    by_cases hx : x < q
    · rcases ih with h | ⟨j, hj, hb, hq⟩
      · exact .inl fun y hy => by rcases List.mem_cons.1 hy with rfl | hy; exacts [hx, h y hy]
      · refine .inr ⟨j + 1, by simpa using hj, fun i hi => ?_, by simpa using hq⟩
        cases i with
        | zero => simpa using hx
        | succ i => simpa using hb i (by omega)
    · exact .inr ⟨0, by simp, fun i hi => by omega, by simpa using hx⟩

/-- `check_syms` answers a word exactly when it is the word read and in range. -/
theorem checkSyms_ok_iff {q : Nat} {s : State} {a k : Nat} {w : Word} :
    (checkSyms q s a k).result = .ok w ↔ s.seenWord a k = w ∧ ValidWord q w := by
  rcases valid_or_firstBad q (s.seenWord a k) with h | ⟨j, h⟩
  · rw [checkSyms_valid h]
    simp only [Except.ok.injEq]
    exact ⟨fun e => ⟨e, e ▸ h⟩, fun e => e.1⟩
  · rw [checkSyms_bad h]
    simp only [reduceCtorEq, false_iff, not_and]
    rintro rfl hv
    have hbad := h.bad
    rw [List.getD_eq_getElem _ _ h.inside] at hbad
    exact Nat.not_lt.2 hbad (hv _ (List.getElem_mem h.inside))

/-- The one error that `check_syms` raises. -/
theorem checkSyms_error {q : Nat} {s : State} {a k : Nat} {c : ErrCode} (h : (checkSyms q s a k).result = .error c) :
    c = .symbolOutOfRange := by
  rcases valid_or_firstBad q (s.seenWord a k) with hv | ⟨j, hb⟩
  · rw [checkSyms_valid hv] at h; cases h
  · rw [checkSyms_bad hb] at h; exact (Except.error.inj h).symm

/-- `check_syms` of written symbols in range answers them and reads no unwritten cell. -/
theorem checkSyms_written {q : Nat} {s : State} {a k : Nat} (h : WrittenWord s q a k) :
    checkSyms q s a k = done (s.seenWord a k) := by
  induction k generalizing a with
  | zero => rfl
  | succ k ih =>
    obtain ⟨b, hb, hq⟩ := h 0 (by omega)
    have hs : s.readCell a = done b := by simp_all [State.readCell, State.seen, done]
    have ht := ih (a := a + 4) fun j hj => by
      rw [show a + 4 + 4 * j = a + 4 * (j + 1) by omega]
      exact h (j + 1) (by omega)
    rw [checkSyms, hs, andThen_done, if_pos hq, ht, andThen_done, seenWord_succ]
    simp_all [State.seen]

/-- `check_syms` that comes upon a never-written cell has read it, and none before it. -/
theorem checkSyms_gap {q : Nat} {s : State} {a k j : Nat} (h : FirstGap s q a k j) :
    (checkSyms q s a k).unwritten = some (a + 4 * j) := by
  induction k generalizing a j with
  | zero => exact absurd h.inside (by omega)
  | succ k ih =>
    rw [checkSyms]
    cases j with
    | zero =>
      have hg : s.mem.read a = none := by simpa using h.gap
      simp [State.readCell, hg]
    | succ j =>
      obtain ⟨b, hb, hq⟩ := h.before 0 (by omega)
      have hs : s.readCell a = done b := by simp_all [State.readCell, State.seen, done]
      have ht := ih (a := a + 4) (j := j) ⟨by have := h.inside; omega, fun i hi => by
        rw [show a + 4 + 4 * i = a + 4 * (i + 1) by omega]
        exact h.before (i + 1) (by omega), by
        rw [show a + 4 + 4 * j = a + 4 * (j + 1) by omega]
        exact h.gap⟩
      rw [hs, andThen_done, if_pos hq]
      have hu : ((checkSyms q s (a + 4) k).andThen fun w => done (b.toNat :: w)).unwritten
          = (checkSyms q s (a + 4) k).unwritten := by
        unfold Checked.andThen
        cases (checkSyms q s (a + 4) k).result <;> simp
      rw [hu, ht]
      congr 1
      omega

/-- A never-written cell read by the first part of a sequence is the first of the sequence. -/
theorem andThen_unwritten_of_some {α β : Type} {x : Checked α} {f : α → Checked β} {a : Nat}
    (h : x.unwritten = some a) : (x.andThen f).unwritten = some a := by
  unfold Checked.andThen
  cases x.result <;> simp [h]

/-- Reading without a range check answers the word read. -/
theorem loadCells_eq (s : State) (a k : Nat) :
    loadCells s a k = ⟨s.firstUnwritten (cellsFrom a k), .ok (s.seenWord a k)⟩ := by
  induction k generalizing a with
  | zero => rfl
  | succ k ih =>
    rw [loadCells, readCell_eq, andThen_ok, ih, cellsFrom, seenWord_succ, firstUnwritten_cons s a (cellsFrom (a + 4) k)]
    simp

/-! ### `gather` -/

/-- `gather` answers a list exactly when every check answers the entry at its place. -/
theorem gather_ok_iff {α : Type} {f : Nat → Checked α} {is : List Nat} {xs : List α} :
    (gather f is).result = .ok xs ↔ List.Forall₂ (fun i x => (f i).result = .ok x) is xs := by
  induction is generalizing xs with
  | nil => simp [gather, eq_comm]
  | cons i is ih =>
    simp only [gather, andThen_ok_iff, done_result, Except.ok.injEq, List.forall₂_cons_left_iff]
    constructor
    · rintro ⟨x, hx, ys, hy, rfl⟩
      exact ⟨x, ys, hx, ih.1 hy, rfl⟩
    · rintro ⟨x, ys, hx, hy, rfl⟩
      exact ⟨x, hx, ys, ih.2 hy, rfl⟩

/-- When `gather` raises an error, one of its checks did. -/
theorem gather_error {α : Type} {f : Nat → Checked α} {is : List Nat} {c : ErrCode}
    (h : (gather f is).result = .error c) : ∃ i ∈ is, (f i).result = .error c := by
  induction is with
  | nil => simp [gather] at h
  | cons i is ih =>
    rcases andThen_error_iff.1 h with h | ⟨x, -, h⟩
    · exact ⟨i, by simp, h⟩
    · rcases andThen_error_iff.1 h with h | ⟨xs, -, h⟩
      · obtain ⟨j, hj, e⟩ := ih h
        exact ⟨j, List.mem_cons_of_mem _ hj, e⟩
      · simp at h

/-- Checks that all answer, one after another: the results in order, and the first never-written cell of them all. -/
theorem gather_eq {α : Type} {f : Nat → Checked α} {s : State} {cells : Nat → List Nat} {v : Nat → α} {is : List Nat}
    (h : ∀ i ∈ is, f i = ⟨s.firstUnwritten (cells i), .ok (v i)⟩) :
    gather f is = ⟨s.firstUnwritten (is.flatMap cells), .ok (is.map v)⟩ := by
  induction is with
  | nil => rfl
  | cons i is ih =>
    rw [gather, h i (by simp), andThen_ok, ih fun j hj => h j (List.mem_cons_of_mem _ hj)]
    simp [firstUnwritten_append]

end Sys2Proof.Machine
end

