-- ==== Sys2Proof/Laws/Poly.lean ====
section
/-! SUPPORT. The lengths and ranges of the arithmetic of words: what each operation answers, said once. -/

namespace Sys2Proof.Machine

@[simp] theorem zeros_length (k : Nat) : (zeros k).length = k := by simp [zeros]

theorem addq_lt {q : Nat} (a b : Nat) (h : 0 < q) : addq q a b < q := Nat.mod_lt _ h

theorem mulq_lt {q : Nat} (a b : Nat) (h : 0 < q) : mulq q a b < q := Nat.mod_lt _ h

theorem negq_lt {q : Nat} (a : Nat) (h : 0 < q) : negq q a < q := Nat.mod_lt _ h

theorem subq_lt {q : Nat} (a b : Nat) (h : 0 < q) : subq q a b < q := by
  have h0 : (q : Int) ≠ 0 := by omega
  have h1 := Int.emod_nonneg ((a : Int) - b) h0
  have h2 := Int.emod_lt_of_pos ((a : Int) - b) (show (0 : Int) < q by omega)
  unfold subq
  omega

/-- The inverse of a unit is in `[1, q)` and multiplies with it to 1. -/
theorem invq_spec {q a : Nat} (h : ∃ b, b < q ∧ 1 ≤ b ∧ mulq q a b = 1) :
    1 ≤ invq q a ∧ invq q a < q ∧ mulq q a (invq q a) = 1 := by
  obtain ⟨b, hb, h1, hm⟩ := h
  unfold invq
  cases hf : (List.range q).find? fun b => 1 ≤ b && mulq q a b == 1 with
  | none =>
    have := List.find?_eq_none.1 hf b (List.mem_range.2 hb)
    simp [h1, hm] at this
  | some c =>
    have hp := List.find?_some hf
    have hc := List.mem_of_find?_eq_some hf
    simp only [Bool.and_eq_true, decide_eq_true_eq, beq_iff_eq] at hp
    exact ⟨hp.1, List.mem_range.1 hc, hp.2⟩

@[simp] theorem pmulf_length (q : Nat) (a b : Word) : (pmulf q a b).length = a.length + b.length - 1 := by
  simp [pmulf]

theorem pmulf_lt {q : Nat} (a b : Word) (h : 0 < q) : ∀ x ∈ pmulf q a b, x < q := by
  intro x hx
  obtain ⟨k, _, rfl⟩ := List.mem_map.1 hx
  exact Nat.mod_lt _ h

@[simp] theorem foldCarry_length (q : Nat) (f t : Word) : (foldCarry q f t).length = f.length := by
  induction f generalizing t with
  | nil => cases t <;> rfl
  | cons x xs ih => cases t <;> simp [foldCarry, ih]

theorem foldCarry_lt {q : Nat} {f : Word} (t : Word) (hf : ∀ x ∈ f, x < q) : ∀ x ∈ foldCarry q f t, x < q := by
  induction f generalizing t with
  | nil => cases t <;> simp [foldCarry]
  | cons y ys ih =>
    have hy : y < q := hf y (by simp)
    cases t with
    | nil => simpa [foldCarry] using hf
    | cons c cs =>
      intro x hx
      rcases List.mem_cons.1 hx with rfl | hx
      · exact addq_lt (q := q) y c (Nat.zero_lt_of_lt hy)
      · exact ih cs (fun z hz => hf z (List.mem_cons_of_mem _ hz)) x hx

/-- The inner loop over any list of positions: the length stays, and symbols stay in range. -/
theorem subtract_foldl {q k t : Nat} (b : Word) (js : List Nat) (w : Word) (hq : 0 < q) :
    (js.foldl (fun w j => w.set (k + j) (subq q (w.getD (k + j) 0) (mulq q t (b.getD j 0)))) w).length = w.length ∧
    ((∀ x ∈ w, x < q) →
      ∀ x ∈ js.foldl (fun w j => w.set (k + j) (subq q (w.getD (k + j) 0) (mulq q t (b.getD j 0)))) w, x < q) := by
  induction js generalizing w with
  | nil => exact ⟨rfl, fun h => h⟩
  | cons j js ih =>
    obtain ⟨hl, hv⟩ := ih (w.set (k + j) (subq q (w.getD (k + j) 0) (mulq q t (b.getD j 0))))
    refine ⟨by simpa using hl, fun h => hv fun x hx => ?_⟩
    rcases List.mem_or_eq_of_mem_set hx with hx | rfl
    · exact h x hx
    · exact subq_lt _ _ hq

theorem subtractAt_length {q : Nat} (w : Word) (k t : Nat) (b : Word) (hq : 0 < q) :
    (subtractAt q w k t b).length = w.length := (subtract_foldl b _ w hq).1

theorem subtractAt_lt {q : Nat} {w : Word} (k t : Nat) (b : Word) (hq : 0 < q) (h : ∀ x ∈ w, x < q) :
    ∀ x ∈ subtractAt q w k t b, x < q := (subtract_foldl b _ w hq).2 h

/-- The loop of `DIVMODF` over any list of turns: the working word keeps its length, the quotient grows by one
symbol a turn, and all symbols are in range. -/
theorem divTurn_foldl {q : Nat} (b : Word) (ks : List Nat) (st : Word × Word) (hq : 0 < q) :
    (ks.foldl (divTurn q b) st).1.length = st.1.length ∧
    (ks.foldl (divTurn q b) st).2.length = st.2.length + ks.length ∧
    ((∀ x ∈ st.1, x < q) → ∀ x ∈ (ks.foldl (divTurn q b) st).1, x < q) ∧
    ((∀ x ∈ st.2, x < q) → ∀ x ∈ (ks.foldl (divTurn q b) st).2, x < q) := by
  induction ks generalizing st with
  | nil => exact ⟨rfl, rfl, fun h => h, fun h => h⟩
  | cons k ks ih =>
    obtain ⟨h1, h2, h3, h4⟩ := ih (divTurn q b st k)
    refine ⟨?_, ?_, fun h => h3 ?_, fun h => h4 ?_⟩
    · rw [List.foldl_cons, h1]
      exact subtractAt_length _ _ _ _ hq
    · rw [List.foldl_cons, h2]
      simp [divTurn]
      omega
    · exact subtractAt_lt _ _ _ hq h
    · intro x hx
      rcases List.mem_append.1 hx with hx | hx
      · exact h x hx
      · rw [List.mem_singleton.1 hx]
        exact mulq_lt _ _ hq

theorem divmodf_quotient_length {q : Nat} (a b : Word) (hq : 0 < q) :
    (divmodf q a b).1.length = a.length + 1 - b.length := by
  have := (divTurn_foldl b (List.range (a.length + 1 - b.length)) (zeros (b.length - 1 - a.length) ++ a, []) hq).2.1
  simpa [divmodf] using this

theorem divmodf_remainder_length {q : Nat} (a b : Word) (hq : 0 < q) :
    (divmodf q a b).2.length = b.length - 1 := by
  have := (divTurn_foldl b (List.range (a.length + 1 - b.length)) (zeros (b.length - 1 - a.length) ++ a, []) hq).1
  simp only [divmodf, List.length_drop]
  rw [this]
  simp
  omega

theorem divmodf_quotient_lt {q : Nat} (a b : Word) (hq : 0 < q) : ∀ x ∈ (divmodf q a b).1, x < q :=
  (divTurn_foldl b _ (_, []) hq).2.2.2 (by simp)

theorem divmodf_remainder_lt {q : Nat} {a : Word} (b : Word) (hq : 0 < q) (ha : ∀ x ∈ a, x < q) :
    ∀ x ∈ (divmodf q a b).2, x < q := by
  intro x hx
  refine (divTurn_foldl b _ (_, []) hq).2.2.1 ?_ x (List.mem_of_mem_drop hx)
  intro y hy
  rcases List.mem_append.1 hy with hy | hy
  · rw [List.eq_of_mem_replicate hy]
    exact hq
  · exact ha y hy

/-- The codeword has length `n`. -/
theorem scr_codeword_length {q n d : Nat} {cont : Bool} {g u t : Word} (hu : u.length = n) (hg : 1 ≤ g.length) :
    (scr q n d cont g u t).1.length = n := by
  unfold scr
  split <;> simp <;> omega

/-- The codeword's symbols are in range. -/
theorem scr_codeword_lt {q n d : Nat} {cont : Bool} {g u t : Word} (hq : 0 < q) :
    ∀ x ∈ (scr q n d cont g u t).1, x < q := by
  unfold scr
  split
  · exact fun x hx => foldCarry_lt t (pmulf_lt u g hq) x (List.mem_of_mem_take hx)
  · exact fun x hx => pmulf_lt u g hq x (List.mem_of_mem_take hx)

/-- In continuous mode the next carry has length `d - 1` and its symbols are in range. -/
theorem scr_carry {q n d : Nat} {g u t : Word} (hq : 0 < q) (hu : u.length = n) (hg : g.length = d) (hd : 1 ≤ d) :
    (scr q n d true g u t).2.length = d - 1 ∧ ∀ x ∈ (scr q n d true g u t).2, x < q := by
  unfold scr
  refine ⟨by simp; omega, fun x hx => ?_⟩
  exact foldCarry_lt t (pmulf_lt u g hq) x (List.mem_of_mem_drop (List.mem_of_mem_take hx))

/-- In block mode the carry is untouched. -/
@[simp] theorem scr_block_carry (q n d : Nat) (g u t : Word) : (scr q n d false g u t).2 = t := rfl

/-- In block mode the remainder is untouched. -/
@[simp] theorem dsc_block_remainder (q n m d : Nat) (g c r : Word) : (dsc q n m d false g c r).2 = r := rfl

/-- The arbiter answers the first of the lowest metrics: the one it started with, or that of a later candidate which
is strictly lower than all before it. -/
theorem arbitrate_spec (best bestm s : Nat) (ms : List Nat) :
    (arbitrate best bestm s ms = (best, bestm) ∧ ∀ x ∈ ms, bestm ≤ x) ∨
    ∃ j, ∃ h : j < ms.length, arbitrate best bestm s ms = (s + j, ms[j]) ∧ ms[j] < bestm ∧
      (∀ x ∈ ms, ms[j] ≤ x) ∧ ∀ i, (hi : i < j) → ms[j] < ms[i] := by
  induction ms generalizing best bestm s with
  | nil => exact .inl ⟨rfl, by simp⟩
  | cons x xs ih =>
    by_cases hx : x < bestm
    · have e : arbitrate best bestm s (x :: xs) = arbitrate s x (s + 1) xs := by simp [arbitrate, hx]
      rw [e]
      rcases ih s x (s + 1) with ⟨h, hm⟩ | ⟨j, hj, h, hlt, hle, hfirst⟩
      · exact .inr ⟨0, by simp, by simpa using h, by simpa using hx, by simpa using hm, by omega⟩
      · refine .inr ⟨j + 1, by simpa using hj, ?_, by simp only [List.getElem_cons_succ]; omega, ?_, ?_⟩
        · rw [h]; simp only [List.getElem_cons_succ, Prod.mk.injEq, and_true]; omega
        · intro y hy
          rcases List.mem_cons.1 hy with rfl | hy
          · simpa using hlt.le
          · simpa using hle y hy
        · intro i hi
          cases i with
          | zero => simpa using hlt
          | succ i => simpa using hfirst i (by omega)
    · have e : arbitrate best bestm s (x :: xs) = arbitrate best bestm (s + 1) xs := by simp [arbitrate, hx]
      rw [e]
      rcases ih best bestm (s + 1) with ⟨h, hm⟩ | ⟨j, hj, h, hlt, hle, hfirst⟩
      · refine .inl ⟨h, fun y hy => ?_⟩
        rcases List.mem_cons.1 hy with rfl | hy
        · omega
        · exact hm y hy
      · refine .inr ⟨j + 1, by simpa using hj, ?_, by simpa using hlt, ?_, ?_⟩
        · rw [h]; simp only [List.getElem_cons_succ, Prod.mk.injEq, and_true]; omega
        · intro y hy
          rcases List.mem_cons.1 hy with rfl | hy
          · simp only [List.getElem_cons_succ]; omega
          · simpa using hle y hy
        · intro i hi
          cases i with
          | zero => simp only [List.getElem_cons_succ, List.getElem_cons_zero]; omega
          | succ i => simpa using hfirst i (by omega)

end Sys2Proof.Machine
end

