-- ==== Sys2Proof/Laws/Ops.lean ====
section
/-! SUPPORT. What each shared operation can do, said once: ending a command, reading operands, writing registers,
and the rules of the commands when they answer a state. -/

namespace Sys2Proof.Machine

/-! ### Ending a command -/

/-- A command ends in a next state: its rule's state, or the error record, and in either the record of the model fault
when its rule read a never-written cell. -/
theorem complete_next_iff {s t : State} {r : Checked State} :
    complete s r = .next t ↔ (∃ u, r.result = .ok u ∧ t = u.succeed.recordFault r.unwritten) ∨
      ∃ c, r.result = .error c ∧ t = (s.raiseErr c).recordFault r.unwritten := by
  unfold complete
  cases r.result <;> simp [eq_comm]

/-- Every command ends in a next state. -/
theorem complete_ends (s : State) (r : Checked State) : ∃ t, complete s r = .next t := by
  unfold complete
  cases r.result <;> exact ⟨_, rfl⟩

@[simp] theorem complete_done (s u : State) : complete s (done u) = .next u.succeed := rfl
@[simp] theorem complete_raise (s : State) (c : ErrCode) : complete s (raise c) = .next (s.raiseErr c) := rfl
@[simp] theorem complete_ok (s u : State) (x : Option Nat) :
    complete s ⟨x, .ok u⟩ = .next (u.succeed.recordFault x) := rfl
@[simp] theorem complete_error (s : State) (x : Option Nat) (c : ErrCode) :
    complete s ⟨x, .error c⟩ = .next ((s.raiseErr c).recordFault x) := rfl

/-- A command that has read these cells and raises an error. -/
theorem raiseErr_recordFault (s : State) (c : ErrCode) (cells : List Nat) :
    (s.raiseErr c).recordFault (s.firstUnwritten cells) = s.failedReading c.code cells := by
  unfold State.recordFault State.failedReading State.recorded
  cases s.firstUnwritten cells <;> rfl

/-- A command whose rule reads a never-written cell records it. -/
theorem complete_records {s : State} {r : Checked State} {a : Nat} (hr : r.unwritten = some a)
    (h : ∀ u, r.result = .ok u → u.cmdLatch = s.cmdLatch ∧ u.modelFaults = s.modelFaults) :
    ∃ t, complete s r = .next t ∧ t.modelFaults = ⟨s.cmdLatch, a⟩ :: s.modelFaults := by
  unfold complete
  cases hx : r.result with
  | ok u => exact ⟨_, rfl, by simp [hr, h u hx]⟩
  | error c => exact ⟨_, rfl, by simp [hr]⟩

/-- The error protocol leaves the state that 60_exceptions.md R171 describes. -/
theorem raiseErr_eq_failedWith (s : State) (c : ErrCode) : s.raiseErr c = s.failedWith c.code := rfl

/-- The codes of the error table are 0x01 to 0x11 (60_exceptions.md R170). -/
theorem errCode_range (c : ErrCode) : 1 ≤ c.code.toNat ∧ c.code.toNat ≤ 0x11 := by cases c <;> decide

theorem configured_ok_iff {s t : State} {r : Checked State} :
    (configured s r).result = .ok t ↔ s.cfgValid = true ∧ r.result = .ok t := by
  unfold configured
  split <;> simp_all

theorem configured_error_iff {s : State} {r : Checked State} {c : ErrCode} :
    (configured s r).result = .error c ↔
      (s.cfgValid = false ∧ c = .notConfigured) ∨ (s.cfgValid = true ∧ r.result = .error c) := by
  unfold configured
  cases h : s.cfgValid <;> simp [eq_comm]

@[simp] theorem configured_of_valid {s : State} (r : Checked State) (h : s.cfgValid = true) : configured s r = r := by
  simp [configured, h]

@[simp] theorem configured_of_invalid {s : State} (r : Checked State) (h : s.cfgValid = false) :
    configured s r = raise .notConfigured := by simp [configured, h]

/-! ### Operands and registers -/

/-- An operand of symbols in range is read whole. -/
theorem operand_holds {s : State} {i : Nat} {w : Word} (h : Holds s i w) :
    s.operand i = ⟨s.firstUnwritten (s.regCells i), .ok w⟩ := by
  obtain ⟨-, rfl, hv⟩ := h
  exact checkSyms_valid hv

/-- An operand with a symbol out of range ends the command at the first of them. -/
theorem operand_bad {s : State} {i j : Nat} (h : FirstBad s.active.q (s.seenReg i) j) :
    s.operand i = ⟨s.firstUnwritten ((s.regCells i).take (j + 1)), .error .symbolOutOfRange⟩ := checkSyms_bad h

/-- An operand is answered exactly when it is the word read and in range. -/
theorem operand_ok_iff {s : State} {i : Nat} {w : Word} :
    (s.operand i).result = .ok w ↔ s.seenReg i = w ∧ ValidWord s.active.q w := checkSyms_ok_iff

theorem candidate_eq (s : State) (slot : Nat) :
    s.candidate slot = ⟨s.firstUnwritten (cellsFrom (CellArray.cand slot).base s.active.n),
      .ok (s.seenWord (CellArray.cand slot).base s.active.n)⟩ := loadCells_eq _ _ _

/-- A complete candidate is answered as it stands, and nothing is recorded. -/
theorem candidate_of_candWord {s : State} {slot : Nat} {w : Word} (h : s.candWord slot = some w) :
    s.candidate slot = done w := by
  rw [candidate_eq, seenWord_of_readWord h, firstUnwritten_of_readWord h]
  rfl

theorem len_setReg (s : State) {rd i : Nat} (w : Word) (h : rd < 16) :
    (s.setReg rd w).len i = if i = rd then w.length else s.len i := by
  unfold State.len
  rw [setReg_wlen, Vector.getElem?_setIfInBounds]
  by_cases hi : rd = i
  · subst hi; simp [h]
  · simp [hi, Ne.symm hi]

/-- A register reads back the word written to it. -/
theorem regWord_setReg_same (s : State) {rd : Nat} (w : Word) (h : rd < 16) (hw : ∀ x ∈ w, x < 256) :
    (s.setReg rd w).regWord rd = some w := by
  unfold State.regWord
  rw [len_setReg s w h, if_pos rfl, setReg_mem]
  exact readWord_storeWord _ _ _ hw

/-- Writing a register changes no cell but the first cells of that register. -/
theorem read_setReg_outside (s : State) (rd : Nat) (w : Word) (a : Nat) (h : ¬ StoredIn (.wsym rd) w.length a) :
    (s.setReg rd w).mem.read a = s.mem.read a := by
  rw [setReg_mem]
  refine read_storeWord_outside _ _ _ _ fun j hj e => h ⟨j, hj, ?_⟩
  simpa [CellArray.addr] using e

/-- Writing a register leaves every other register's word. -/
theorem regWord_setReg_other (s : State) {rd i : Nat} (w : Word) (hrd : rd < 16) (hi : i ≠ rd)
    (hl : s.len i ≤ 64) (hw : w.length ≤ 64) : (s.setReg rd w).regWord i = s.regWord i := by
  unfold State.regWord
  rw [len_setReg s w hrd, if_neg hi]
  refine readWord_congr _ fun j hj => read_setReg_outside _ _ _ _ ?_
  rintro ⟨k, hk, e⟩
  simp only [CellArray.addr, CellArray.base] at e
  omega

/-- Writing the cells of an array changes no other cell. -/
theorem read_setCells_outside (s : State) (arr : CellArray) (w : Word) (a : Nat) (h : ¬ StoredIn arr w.length a) :
    (s.setCells arr w).mem.read a = s.mem.read a := by
  rw [setCells_mem]
  refine read_storeWord_outside _ _ _ _ fun j hj e => h ⟨j, hj, ?_⟩
  simpa [CellArray.addr] using e

/-- The update of the running digital sum: exact inside the 32-bit range, saturating outside it. -/
theorem updateRds_rds (s : State) (c : Word) :
    (s.updateRds c).rds.toInt = max (-(2 ^ 31)) (min (2 ^ 31 - 1) (s.rds.toInt + sumv s.active.q c)) := by
  unfold State.updateRds
  dsimp only
  split
  · rename_i h
    rw [BitVec.toInt_ofInt]
    rw [min_eq_left (by omega)]
    decide
  · rename_i h
    split
    · rename_i h2
      rw [BitVec.toInt_ofInt, min_eq_right (by omega), max_eq_left (by omega)]
      decide
    · rename_i h2
      rw [BitVec.toInt_ofInt, min_eq_right (by omega), max_eq_right (by omega)]
      rw [Int.bmod_eq_of_le] <;> omega

/-! ### The rules of the commands, when they answer a state -/

/-- What the elementwise rule answers. -/
theorem elementwise_ok_iff {op : Nat → Nat → Nat → Nat} {rd rs1 rs2 : Nat} {s t : State} :
    (elementwise op rd rs1 rs2 s).result = .ok t ↔ s.len rs1 = s.len rs2 ∧ ∃ a b, (s.operand rs1).result = .ok a ∧
      (s.operand rs2).result = .ok b ∧ t = s.setReg rd (List.zipWith (op s.active.q) a b) := by
  unfold elementwise
  rw [ite_raise_ok_iff]
  simp only [andThen_ok_iff, done_result, Except.ok.injEq, not_not]
  exact ⟨fun ⟨h, a, ha, b, hb, e⟩ => ⟨h, a, b, ha, hb, e.symm⟩, fun ⟨h, a, b, ha, hb, e⟩ => ⟨h, a, ha, b, hb, e.symm⟩⟩

/-- What the rule of PMUL answers. -/
theorem pmulRule_ok {rd rs1 rs2 : Nat} {s t : State} (h : (pmulRule rd rs1 rs2 s).result = .ok t) :
    s.len rs1 ≠ 0 ∧ s.len rs2 ≠ 0 ∧ s.len rs1 + s.len rs2 - 1 ≤ 64 ∧ ∃ a b, (s.operand rs1).result = .ok a ∧
      (s.operand rs2).result = .ok b ∧ t = s.setReg rd (pmulf s.active.q a b) := by
  unfold pmulRule at h
  rw [ite_raise_ok_iff, ite_raise_ok_iff] at h
  obtain ⟨h0, h1, h⟩ := h
  obtain ⟨a, ha, h⟩ := andThen_ok_iff.1 h
  obtain ⟨b, hb, h⟩ := andThen_ok_iff.1 h
  simp only [Config.maxLen] at h1
  exact ⟨by tauto, by tauto, by omega, a, b, ha, hb, (Except.ok.inj h).symm⟩

/-- What the rule of PDIVMOD answers. -/
theorem pdivmodRule_ok {rd rd2 rs1 rs2 : Nat} {s t : State} (h : (pdivmodRule rd rd2 rs1 rs2 s).result = .ok t) :
    rd ≠ rd2 ∧ s.len rs2 ≠ 0 ∧ ∃ a b, (s.operand rs1).result = .ok a ∧ (s.operand rs2).result = .ok b ∧
      unitq s.active.q (b.getD 0 0) = true ∧
      t = (s.setReg rd (divmodf s.active.q a b).1).setReg rd2 (divmodf s.active.q a b).2 := by
  unfold pdivmodRule at h
  rw [ite_raise_ok_iff, ite_raise_ok_iff] at h
  obtain ⟨h0, h1, h⟩ := h
  obtain ⟨a, ha, h⟩ := andThen_ok_iff.1 h
  obtain ⟨b, hb, h⟩ := andThen_ok_iff.1 h
  split at h
  · rename_i hu
    exact ⟨h0, h1, a, b, ha, hb, hu, (Except.ok.inj h).symm⟩
  · exact absurd h raise_ne_ok

/-- A payload is answered exactly when its length is `n - m` and its operand is. -/
theorem payload_ok_iff {rs1 : Nat} {s : State} {p : Word} :
    (payload rs1 s).result = .ok p ↔ s.len rs1 = s.active.n - s.active.m ∧ (s.operand rs1).result = .ok p := by
  unfold payload
  rw [ite_raise_ok_iff, not_ne_iff]

/-- What the rule of SCRAMBLE answers. -/
theorem scrambleRule_ok {rd rs1 slot : Nat} {s t : State} (h : (scrambleRule rd rs1 slot s).result = .ok t) :
    slot < s.active.N ∧ ∃ p, (payload rs1 s).result = .ok p ∧
      t = if s.active.cont then (s.setReg rd (s.scramble p slot).1).setCells (.slotCarry slot) (s.scramble p slot).2
        else s.setReg rd (s.scramble p slot).1 := by
  unfold scrambleRule at h
  rw [ite_raise_ok_iff] at h
  obtain ⟨h0, h⟩ := h
  obtain ⟨p, hp, h⟩ := andThen_ok_iff.1 h
  exact ⟨by omega, p, hp, (Except.ok.inj h).symm⟩

/-- Storing the candidates changes the memory only. -/
theorem storeCandidates_eq (slot : Nat) (s : State) (l : List (Word × Word)) :
    storeCandidates slot s l = { s with mem := (storeCandidates slot s l).mem } := by
  induction l generalizing slot s with
  | nil => rfl
  | cons c l ih =>
    unfold storeCandidates
    dsimp only
    split
    · rw [ih]; rfl
    · rw [ih]; rfl

/-- What the rule of CANDIDATES answers. -/
theorem candidatesRule_ok {rs1 : Nat} {s t : State} (h : (candidatesRule rs1 s).result = .ok t) :
    ∃ p, (payload rs1 s).result = .ok p ∧
      t = { storeCandidates 0 s ((List.range s.active.N).map (s.scramble p)) with
        candValid := true, selValid := false } := by
  obtain ⟨p, hp, h⟩ := andThen_ok_iff.1 h
  exact ⟨p, hp, (Except.ok.inj h).symm⟩

/-- The metric of a complete candidate. -/
theorem candidateMetric_of_candWord {s : State} {slot : Nat} {c : Word} (h : s.candWord slot = some c) :
    s.candidateMetric slot = done (s.metricOf c) := by
  unfold State.candidateMetric
  rw [candidate_of_candWord h, andThen_done]

/-- What the rule of SELECT answers. -/
theorem selectRule_ok {s t : State} (h : (selectRule s).result = .ok t) :
    s.candValid = true ∧ ∃ m0 ms, (s.candidateMetric 0).result = .ok m0 ∧
      (gather s.candidateMetric (List.range' 1 (s.active.N - 1))).result = .ok ms ∧
      t = { s with
        selPending := BitVec.ofNat 4 (arbitrate 0 m0 1 ms).1
        metric := BitVec.ofNat 32 (arbitrate 0 m0 1 ms).2
        selValid := true } := by
  unfold selectRule at h
  split at h
  · rename_i h0
    obtain ⟨m0, hm, h⟩ := andThen_ok_iff.1 h
    obtain ⟨ms, hg, h⟩ := andThen_ok_iff.1 h
    exact ⟨h0, m0, ms, hm, hg, (Except.ok.inj h).symm⟩
  · exact absurd h raise_ne_ok

/-- What the rule of COMMIT answers. -/
theorem commitRule_ok {rd : Nat} {s t : State} (h : (commitRule rd s).result = .ok t) :
    s.selValid = true ∧ ∃ c, c = s.seenWord (CellArray.cand s.selPending.toNat).base s.active.n ∧
      t = { (s.setReg rd c).updateRds c with
        sel := s.selPending
        wordcount := s.wordcount + 1
        candValid := false
        selValid := false } := by
  unfold commitRule at h
  split at h
  · rename_i h0
    obtain ⟨c, hc, h⟩ := andThen_ok_iff.1 h
    rw [candidate_eq] at hc
    exact ⟨h0, c, (Except.ok.inj hc).symm, (Except.ok.inj h).symm⟩
  · exact absurd h raise_ne_ok

/-- What the rule of ENCODE answers: the three rules in sequence. -/
theorem encodeRule_ok_iff {rd rs1 : Nat} {s t : State} :
    (encodeRule rd rs1 s).result = .ok t ↔ ∃ s1, (candidatesRule rs1 s).result = .ok s1 ∧
      ∃ s2, (selectRule s1).result = .ok s2 ∧ (commitRule rd s2).result = .ok t := by
  unfold encodeRule
  simp only [andThen_ok_iff]

/-- What the rule of DECODE answers. -/
theorem decodeRule_ok {rd rs1 : Nat} {s t : State} (h : (decodeRule rd rs1 s).result = .ok t) :
    s.len rs1 = s.active.n ∧ ∃ c, (s.operand rs1).result = .ok c ∧ unitq s.active.q (s.active.g.getD 0 0) = true ∧
      t = if s.active.cont then (s.setReg rd (s.descramble c).1).setCells .descRem (s.descramble c).2
        else s.setReg rd (s.descramble c).1 := by
  unfold decodeRule at h
  rw [ite_raise_ok_iff] at h
  obtain ⟨h0, h⟩ := h
  obtain ⟨c, hc, h⟩ := andThen_ok_iff.1 h
  split at h
  · rename_i hu
    exact ⟨not_ne_iff.1 h0, c, hc, hu, (Except.ok.inj h).symm⟩
  · exact absurd h raise_ne_ok

/-- The staged numbers pass exactly when every one of their checks does. -/
theorem configureNumbers_ok {q n m d numAug alpha msel : Nat} {u : Unit}
    (h : (configureNumbers q n m d numAug alpha msel).result = .ok u) :
    1 ≤ m ∧ m < n ∧ 2 ≤ d ∧ 2 ≤ q ∧ q ≤ 256 ∧ isPrimePower q = true ∧ alpha = q ∧ msel = 0 ∧ n ≤ 64 ∧ d ≤ 64 ∧
      1 ≤ numAug ∧ numAug ≤ 16 := by
  unfold configureNumbers at h
  repeat rw [ite_raise_ok_iff] at h
  simp only [Config.maxQ, Config.maxLen, Config.maxN, not_or, not_lt, not_le, Bool.not_eq_false, ne_eq, not_not] at h
  obtain ⟨hm, hn, hd, ⟨hq, hq', hp⟩, ⟨ha, hs⟩, ⟨hn', hd'⟩, ⟨hN, hN'⟩, -⟩ := h
  exact ⟨hm, hn, hd, hq, hq', hp, ha, hs, hn', hd', hN, hN'⟩

/-- What the rule of CONFIGURE answers. -/
theorem configureRule_ok {s t : State} (h : (configureRule s).result = .ok t) :
    ∃ g aug, (configureNumbers s.cfgField.toNat s.cfgCwlen.toNat s.cfgAuglen.toNat s.cfgDivlen.toNat s.cfgNaug.toNat
        s.cfgAlphabet.toNat s.cfgMetricSel.toNat).result = .ok () ∧
      (checkSyms s.cfgField.toNat s CellArray.divisorStg.base s.cfgDivlen.toNat).result = .ok g ∧
      (gather (fun slot => checkSyms s.cfgField.toNat s (CellArray.augStg slot).base s.cfgAuglen.toNat)
        (List.range s.cfgNaug.toNat)).result = .ok aug ∧
      t = (s.latchConfig g aug).resetRunning := by
  unfold configureRule at h
  simp only [andThen_ok_iff, done_result, Except.ok.injEq] at h
  obtain ⟨_, hn, g, hg, aug, ha, h⟩ := h
  exact ⟨g, aug, hn, hg, ha, h.symm⟩

end Sys2Proof.Machine
end

