-- ==== Sys2Proof/Laws/Host.lean ====
section
/-! SUPPORT. What a host operation and a step can do, said once. -/

namespace Sys2Proof.Machine

/-- What a host operation answers: the reset input, a read, a write while `Idle`, one turn of `wait`, or the reads a
`wget` stands for. -/
theorem hostStep_next {op : HostOp} {s t : State} (h : hostStep op s = .next t) :
    (op = .reset ∧ t = s.resetInput) ∨
    (∃ a, op = .read 32 a ∧ a.toNat % 4 = 0 ∧ (s.phase = .idle ∨ a = statusAddr) ∧ t = s.recordRead a) ∨
    (∃ a v, op = .write 32 a v ∧ a.toNat % 4 = 0 ∧ s.phase = .idle ∧ t = s.memWrite a v) ∨
    (op = .wait ∧ t = if s.status.getLsbD 0 then { s.recordRead statusAddr with host := .wait :: s.host }
      else s.recordRead statusAddr) ∨
    (∃ i, op = .wget i ∧ s.phase = .idle ∧ ∃ cells, t = { s.recordRead (BitVec.ofNat 16 (0x0080 + 4 * i)) with
      host := cells ++ s.host }) := by
  have idle_of : s.busy = false → s.phase = .idle := fun hb => by
    cases hp : s.phase
    · rfl
    · simp [State.busy, hp] at hb
  cases op with
  | reset => exact .inl ⟨rfl, (Host.Outcome.next.inj h).symm⟩
  | read width a =>
    simp only [hostStep] at h
    split at h
    · cases h
    · rename_i ha
      split at h
      · cases h
      · rename_i hb
        simp only [admitted, Bool.not_eq_false, Bool.and_eq_true, beq_iff_eq] at ha
        obtain ⟨rfl, ha⟩ := ha
        refine .inr (.inl ⟨a, rfl, ha, ?_, (Host.Outcome.next.inj h).symm⟩)
        by_cases hs : a = statusAddr
        · exact .inr hs
        · exact .inl (idle_of (by simpa [hs] using hb))
  | write width a v =>
    simp only [hostStep] at h
    split at h
    · cases h
    · rename_i ha
      split at h
      · cases h
      · rename_i hb
        simp only [admitted, Bool.not_eq_false, Bool.and_eq_true, beq_iff_eq] at ha
        obtain ⟨rfl, ha⟩ := ha
        exact .inr (.inr (.inl ⟨a, v, rfl, ha, idle_of (by simpa using hb), (Host.Outcome.next.inj h).symm⟩))
  | wait => exact .inr (.inr (.inr (.inl ⟨rfl, (Host.Outcome.next.inj h).symm⟩)))
  | wget i =>
    simp only [hostStep] at h
    split at h
    · cases h
    · rename_i hb
      exact .inr (.inr (.inr (.inr ⟨i, rfl, idle_of (by simpa using hb), _, (Host.Outcome.next.inj h).symm⟩)))

/-- What a step answers: nothing to do, a host operation, an executed command, or an illegal word. -/
theorem step_next {s t : State} (h : step s = .next t) :
    (s.phase = .idle ∧ s.host = [] ∧ t = s) ∨
    (∃ op u, s.turn = .host op u ∧ hostStep op u = .next t) ∨
    (s.phase = .busy ∧ ∃ i, decode s.cmdLatch = .ok i ∧ exec i s = .next t) ∨
    (s.phase = .busy ∧ (∃ e, decode s.cmdLatch = .error e) ∧ t = s.raiseErr .illegalCommand) := by
  unfold step at h
  split at h
  · rename_i op u hu
    exact .inr (.inl ⟨op, u, hu, h⟩)
  · rename_i hu
    have hp : s.phase = .busy := by
      cases hp : s.phase
      · unfold State.turn at hu
        split at hu <;> simp_all
      · rfl
    unfold engineStep State.fetched at h
    split at h
    · rename_i i hi
      exact .inr (.inr (.inl ⟨hp, i, hi, h⟩))
    · rename_i e he
      refine .inr (.inr (.inr ⟨hp, ⟨e, he⟩, ?_⟩))
      simpa [illegal, eq_comm] using h
  · rename_i hu
    refine .inl ?_
    unfold State.turn at hu
    split at hu
    · exact ⟨by assumption, by assumption, (Host.Outcome.next.inj h).symm⟩
    · cases hu
    · cases hu
    · split at hu <;> cases hu

/-- The host's turn changes the two fields that say whose turn it is and nothing else. -/
theorem turn_host {s u : State} {op : HostOp} (h : s.turn = .host op u) :
    ∃ rest k, s.host = op :: rest ∧ u = { s with host := rest, hostTurns := k } := by
  unfold State.turn at h
  split at h
  · cases h
  · rename_i heq
    cases h
    exact ⟨_, s.hostTurns, heq, rfl⟩
  · cases h
  · rename_i heq
    split at h
    · cases h
    · cases h
      exact ⟨_, _, heq, rfl⟩

/-! ### The address map at the cells (20_memory.md R52) -/

theorem locOf_divisorStg {k : Nat} (hk : k < 64) :
    locOf (BitVec.ofNat 16 (CellArray.divisorStg.addr k)).toNat = .cell CellArray.divisorStg k := by
  simp only [CellArray.addr, CellArray.base, BitVec.toNat_ofNat]
  rw [Nat.mod_eq_of_lt (by omega)]
  unfold locOf
  split_ifs <;> try omega
  · congr 1; omega

theorem locOf_descRem {k : Nat} (hk : k < 64) :
    locOf (BitVec.ofNat 16 (CellArray.descRem.addr k)).toNat = .cell CellArray.descRem k := by
  simp only [CellArray.addr, CellArray.base, BitVec.toNat_ofNat]
  rw [Nat.mod_eq_of_lt (by omega)]
  unfold locOf
  split_ifs <;> try omega
  · congr 1; omega

theorem locOf_augStg {s k : Nat} (hs : s < 16) (hk : k < 64) :
    locOf (BitVec.ofNat 16 ((CellArray.augStg s).addr k)).toNat = .cell (CellArray.augStg s) k := by
  simp only [CellArray.addr, CellArray.base, BitVec.toNat_ofNat]
  rw [Nat.mod_eq_of_lt (by omega)]
  unfold locOf
  split_ifs <;> try omega
  · congr 1
    · congr 1; omega
    · omega

theorem locOf_wsym {s k : Nat} (hs : s < 16) (hk : k < 64) :
    locOf (BitVec.ofNat 16 ((CellArray.wsym s).addr k)).toNat = .cell (CellArray.wsym s) k := by
  simp only [CellArray.addr, CellArray.base, BitVec.toNat_ofNat]
  rw [Nat.mod_eq_of_lt (by omega)]
  unfold locOf
  split_ifs <;> try omega
  · congr 1
    · congr 1; omega
    · omega

theorem locOf_slotCarry {s k : Nat} (hs : s < 16) (hk : k < 64) :
    locOf (BitVec.ofNat 16 ((CellArray.slotCarry s).addr k)).toNat = .cell (CellArray.slotCarry s) k := by
  simp only [CellArray.addr, CellArray.base, BitVec.toNat_ofNat]
  rw [Nat.mod_eq_of_lt (by omega)]
  unfold locOf
  split_ifs <;> try omega
  · congr 1
    · congr 1; omega
    · omega

theorem locOf_cand {s k : Nat} (hs : s < 16) (hk : k < 64) :
    locOf (BitVec.ofNat 16 ((CellArray.cand s).addr k)).toNat = .cell (CellArray.cand s) k := by
  simp only [CellArray.addr, CellArray.base, BitVec.toNat_ofNat]
  rw [Nat.mod_eq_of_lt (by omega)]
  unfold locOf
  split_ifs <;> try omega
  · congr 1
    · congr 1; omega
    · omega

end Sys2Proof.Machine
end

