-- ==== Sys2Proof/Laws/PerInstr.lean ====
section
/-! SUPPORT. Per-instruction families: one lemma for each constructor of `Instr`. -/

namespace Sys2Proof.Laws

/-- The opcode field of an encoded command is the opcode of its row of 30_encoding.md R74. -/
def OpcodeField.Statement (i : Instr) : Prop :=
  i.wellFormed = true →
    field (encode i) 7 0 =
      match i with
      | .nop => 0x00
      | .configure => 0x01
      | .resetState => 0x02
      | .wadd .. => 0x10
      | .wmul .. => 0x11
      | .pmul .. => 0x12
      | .pdivmod .. => 0x13
      | .scramble .. => 0x20
      | .candidates .. => 0x21
      | .select => 0x22
      | .commit .. => 0x23
      | .encode .. => 0x24
      | .decode .. => 0x30

/-- The opcode field of a packed word. -/
theorem field_pack_opc {opc rd rs1 rs2 rd2 slot : Nat} (h0 : opc < 256) :
    field (pack opc rd rs1 rs2 rd2 slot) 7 0 = opc := by
  simp only [field, pack, BitVec.toNat_ofNat]
  omega

theorem OpcodeField.nop : OpcodeField.Statement .nop := fun _ => field_pack_opc (by decide)
theorem OpcodeField.configure : OpcodeField.Statement .configure := fun _ => field_pack_opc (by decide)
theorem OpcodeField.resetState : OpcodeField.Statement .resetState := fun _ => field_pack_opc (by decide)
theorem OpcodeField.wadd (rd rs1 rs2 : Nat) : OpcodeField.Statement (.wadd rd rs1 rs2) :=
  fun _ => field_pack_opc (by decide)
theorem OpcodeField.wmul (rd rs1 rs2 : Nat) : OpcodeField.Statement (.wmul rd rs1 rs2) :=
  fun _ => field_pack_opc (by decide)
theorem OpcodeField.pmul (rd rs1 rs2 : Nat) : OpcodeField.Statement (.pmul rd rs1 rs2) :=
  fun _ => field_pack_opc (by decide)
theorem OpcodeField.pdivmod (rd rd2 rs1 rs2 : Nat) : OpcodeField.Statement (.pdivmod rd rd2 rs1 rs2) :=
  fun _ => field_pack_opc (by decide)
theorem OpcodeField.scramble (rd rs1 slot : Nat) : OpcodeField.Statement (.scramble rd rs1 slot) :=
  fun _ => field_pack_opc (by decide)
theorem OpcodeField.candidates (rs1 : Nat) : OpcodeField.Statement (.candidates rs1) :=
  fun _ => field_pack_opc (by decide)
theorem OpcodeField.select : OpcodeField.Statement .select := fun _ => field_pack_opc (by decide)
theorem OpcodeField.commit (rd : Nat) : OpcodeField.Statement (.commit rd) := fun _ => field_pack_opc (by decide)
theorem OpcodeField.encode (rd rs1 : Nat) : OpcodeField.Statement (.encode rd rs1) :=
  fun _ => field_pack_opc (by decide)
theorem OpcodeField.decode (rd rs1 : Nat) : OpcodeField.Statement (.decode rd rs1) :=
  fun _ => field_pack_opc (by decide)

end Sys2Proof.Laws
end

