-- ==== Sys2Proof/Tests/Slice0.lean ====
section
/-! SUPPORT. Tests: the smoke test of WellFormed, decoding of words written out from the spec's encodings, one or two
small steps per command from the vectors of 95_test_vectors.md, and a witness for the hypotheses of every statement. -/

namespace Sys2Proof.Tests

open Sys2Proof.Machine

/-! ### WellFormed refuses an operand that does not fit (30_encoding.md R72) -/

theorem test_wellFormed_accepts : (Instr.pdivmod 15 0 15 15).wellFormed = true := by decide
theorem test_wellFormed_wadd : [Instr.wadd 16 0 0, .wadd 0 16 0, .wadd 0 0 16].all (!·.wellFormed) = true := by decide
theorem test_wellFormed_wmul : [Instr.wmul 16 0 0, .wmul 0 16 0, .wmul 0 0 16].all (!·.wellFormed) = true := by decide
theorem test_wellFormed_pmul : [Instr.pmul 16 0 0, .pmul 0 16 0, .pmul 0 0 16].all (!·.wellFormed) = true := by decide
theorem test_wellFormed_pdivmod :
    [Instr.pdivmod 16 0 0 0, .pdivmod 0 16 0 0, .pdivmod 0 0 16 0, .pdivmod 0 0 0 16].all (!·.wellFormed) = true := by
  decide
theorem test_wellFormed_scramble :
    [Instr.scramble 16 0 0, .scramble 0 16 0, .scramble 0 0 256].all (!·.wellFormed) = true := by decide
theorem test_wellFormed_one_register :
    [Instr.candidates 16, .commit 16, .encode 16 0, .encode 0 16, .decode 16 0, .decode 0 16].all
      (!·.wellFormed) = true := by decide

/-! ### Words written out from the encoding (95_test_vectors.md section 2.0) -/

theorem test_decode_nop : Sys2Proof.decode 0x00000000 = .ok .nop := by decide
theorem test_decode_configure : Sys2Proof.decode 0x00000001 = .ok .configure := by decide
theorem test_decode_reset_state : Sys2Proof.decode 0x00000002 = .ok .resetState := by decide
theorem test_decode_wadd : Sys2Proof.decode 0x00021310 = .ok (.wadd 3 1 2) := by decide
theorem test_decode_wmul : Sys2Proof.decode 0x00021611 = .ok (.wmul 6 1 2) := by decide
theorem test_decode_pmul : Sys2Proof.decode 0x00021412 = .ok (.pmul 4 1 2) := by decide
theorem test_decode_pdivmod : Sys2Proof.decode 0x00614513 = .ok (.pdivmod 5 6 4 1) := by decide
theorem test_decode_scramble : Sys2Proof.decode 0xFF00FF20 = .ok (.scramble 15 15 255) := by decide
theorem test_decode_candidates : Sys2Proof.decode 0x00001021 = .ok (.candidates 1) := by decide
theorem test_decode_select : Sys2Proof.decode 0x00000022 = .ok .select := by decide
theorem test_decode_commit : Sys2Proof.decode 0x00000223 = .ok (.commit 2) := by decide
theorem test_decode_encode : Sys2Proof.decode 0x00001224 = .ok (.encode 2 1) := by decide
theorem test_decode_decode : Sys2Proof.decode 0x00002330 = .ok (.decode 3 2) := by decide
theorem test_decode_table_word : decodeTableWord 32 0x00521413 = some (.pdivmod 4 5 1 2) := by decide
theorem test_decode_illegal :
    [0x00000122, 0x00000100, 0x000000FF, 0x00000003, 0x00000014, 0x00000031, 0x00100010, 0x01001021, 0x00001121,
      0x00010220, 0x00001023].all (fun w => (decodeTableWord 32 w).isNone) = true := by decide

/-! ### Small states -/

/-- Configuration B1 (block) or C1 (continuous) of 95_test_vectors.md section 2.2. -/
def demoCfg (cont : Bool) : ActiveConfig :=
  { q := 2, n := 4, m := 1, d := 3, N := 2, cont := cont, metric := 0, g := [1, 0, 1], aug := [[0], [1]] }

/-- That configuration in force, with `w1 = [1,0,1]`, `w2 = [1,1]` and `w4 = [1,1,1,0]`. -/
def demo (cont : Bool) : State :=
  ((({ State.reset with active := demoCfg cont, cfgValid := true } : State).setReg 1 [1, 0, 1]).setReg 2 [1, 1]).setReg
    4 [1, 1, 1, 0]

/-- A pending candidate set. -/
def demoCand : State :=
  { ((demo false).setCells (.cand 0) [0, 1, 0, 0]).setCells (.cand 1) [1, 1, 1, 0] with candValid := true }

/-- A pending selection. -/
def demoSel : State := { demoCand with selValid := true, selPending := 1 }

/-- A field of size `q` with two registers, for the vectors of the Word family. -/
def wordState (q : Nat) (a b : Word) : State :=
  (({ State.reset with active := { demoCfg false with q := q }, cfgValid := true } : State).setReg 1 a).setReg 2 b

/-- Staged numbers, with configuration B1's symbols staged. -/
def staged (q n m d numAug alpha msel : Nat) : State :=
  ((({ State.reset with
    cfgField := BitVec.ofNat 16 q, cfgCwlen := BitVec.ofNat 16 n, cfgAuglen := BitVec.ofNat 16 m
    cfgDivlen := BitVec.ofNat 16 d, cfgNaug := BitVec.ofNat 16 numAug, cfgAlphabet := BitVec.ofNat 16 alpha
    cfgMetricSel := BitVec.ofNat 8 msel } : State).setCells .divisorStg [1, 0, 1]).setCells (.augStg 0) [0]).setCells
    (.augStg 1) [1]

/-- Register 9 has length `l` and only its first cell written, with the symbol `x`. -/
def gapState (x l : Nat) : State :=
  { (demo false).setReg 9 [x] with wlen := ((demo false).setReg 9 [x]).wlen.setIfInBounds 9 l }

/-- The outcome is a next state with a property. -/
def nextIs (o : Host.Outcome State Fault Refusal) (p : State → Bool) : Bool :=
  match o with
  | .next t => p t
  | _ => false

/-! ### One step of each command (95_test_vectors.md) -/

theorem test_nop : nextIs (exec .nop { State.reset with errcode := 5 }) (·.errcode == 0) = true := by decide

theorem test_configure_latches :
    nextIs (exec .configure (staged 2 4 1 3 2 2 0)) (fun t => t.active == demoCfg false && t.status == 0x00000002)
      = true := by decide
theorem test_configure_first_check_wins :
    nextIs (exec .configure (staged 2 0 0 3 2 2 0)) (·.errcode == 0x01) = true := by decide

theorem test_reset_state :
    nextIs (exec .resetState { (demo true).setCells (.slotCarry 1) [1, 1] with rds := 7, wordcount := 3 })
      (fun t => t.carry 1 == [0, 0] && t.rds == 0 && t.wordcount == 0) = true := by decide

theorem test_wadd_wraps :
    nextIs (exec (.wadd 5 1 2) (wordState 5 [1, 2, 3, 4] [4, 4, 4, 4])) (·.regWord 5 == some [0, 1, 2, 3]) = true := by
  decide
theorem test_wadd_not_configured :
    nextIs (exec (.wadd 2 1 1) State.reset) (fun t => t.errcode == 0x0A && t.err) = true := by decide

theorem test_wmul_ring_of_four :
    nextIs (exec (.wmul 3 1 2) (wordState 4 [2, 3] [2, 3])) (·.regWord 3 == some [0, 1]) = true := by decide

theorem test_pmul :
    nextIs (exec (.pmul 3 1 2) (wordState 7 [1, 2, 3] [4, 5])) (·.regWord 3 == some [4, 6, 1, 1]) = true := by decide

theorem test_pdivmod :
    nextIs (exec (.pdivmod 3 4 1 2) (wordState 5 [1, 0, 0, 0] [2, 1]))
      (fun t => t.regWord 3 == some [3, 1, 2] && t.regWord 4 == some [3]) = true := by decide
theorem test_pdivmod_overwrites_its_sources :
    nextIs (exec (.pdivmod 1 2 1 2) (wordState 5 [1, 2, 3] [4, 1]))
      (fun t => t.regWord 1 == some [4, 2] && t.regWord 2 == some [1]) = true := by decide

theorem test_scramble_block :
    nextIs (exec (.scramble 3 1 1) (demo false)) (fun t => t.regWord 3 == some [1, 1, 1, 0] && t.carry 1 == [0, 0])
      = true := by decide
theorem test_scramble_continuous_carry :
    nextIs (exec (.scramble 1 1 1) (((demo true).setReg 1 [1, 1, 0]).setCells (.slotCarry 1) [0, 1]))
      (fun t => t.regWord 1 == some [1, 0, 0, 1] && t.carry 1 == [1, 0]) = true := by decide

theorem test_candidates :
    nextIs (exec (.candidates 1) (demo true))
      (fun t => t.candWord 0 == some [0, 1, 0, 0] && t.candWord 1 == some [1, 1, 1, 0] && t.carry 0 == [0, 1] &&
        t.status == 0x00000046) = true := by decide

theorem test_select_tie_keeps_the_lower :
    nextIs (exec .select (demoCand.setCells (.cand 0) [0, 1, 1, 1])) (fun t => t.selPending == 0 && t.metric == 2)
      = true := by decide
theorem test_select_strictly_lower :
    nextIs (exec .select { demoCand with rds := 0xFFFFFFFE }) (fun t => t.selPending == 1 && t.metric == 0) = true := by
  decide

theorem test_commit_saturates :
    nextIs (exec (.commit 3) { demoSel with rds := 0x7FFFFFFE })
      (fun t => t.rds == 0x7FFFFFFF && t.rdsOvf && t.regWord 3 == some [1, 1, 1, 0]) = true := by decide

theorem test_encode_winner :
    nextIs (exec (.encode 3 1) { (demo false).setReg 1 [0, 0, 0] with rds := 0x80000001 })
      (fun t => t.metric == 0x7FFFFFFF && t.rds == 0x80000001 && t.sel == 1) = true := by decide

theorem test_decode_block :
    nextIs (exec (.decode 3 4) (demo false)) (·.regWord 3 == some [1, 0, 1]) = true := by decide
theorem test_decode_field_validity :
    nextIs (exec (.decode 3 4) { demo false with active := { demoCfg false with g := [0, 1, 1] } })
      (·.errcode == 0x08) = true := by decide

/-- The symbol 2 out of range stands before a cell that was never written, which is then not read. -/
theorem test_symbol_error_before_a_gap :
    nextIs (exec (.wadd 3 9 9) (gapState 2 2)) (fun t => t.errcode == 0x09 && t.modelFaults == []) = true := by decide

theorem gapState_gap : ∀ l ∈ [2, 3, 4], FirstGap (gapState 1 l) (gapState 1 l).active.q (CellArray.wsym 9).base
    ((gapState 1 l).len 9) 1 := by
  have h0 : ∀ j, j < 1 → j = 0 := fun j hj => by omega
  intro l hl
  simp only [List.mem_cons, List.not_mem_nil, or_false] at hl
  rcases hl with rfl | rfl | rfl <;>
    exact ⟨by decide, fun j hj => h0 j hj ▸ ⟨1, by decide, by decide⟩, by decide⟩

/-- The symbol 1 stands before a cell that was never written: its address is recorded, and the command ends. -/
theorem test_gap_is_recorded : RecordsFault (.decode 3 9) (gapState 1 4) 0x2904 := by
  refine complete_records ?_ fun u hu => ?_
  · rw [configured_of_valid _ (by decide), decodeRule, if_neg (by decide)]
    exact andThen_unwritten_of_some (checkSyms_gap (gapState_gap 4 (by simp)))
  · rw [configured_of_valid _ (by decide)] at hu
    obtain ⟨-, c, -, -, rfl⟩ := decodeRule_ok hu
    split <;> exact ⟨rfl, rfl⟩

/-! ### The host interface and the step (95_test_vectors.md section 2.6) -/

theorem test_wlen_65_ignored : ((State.reset.memWrite 0x0080 3).memWrite 0x0080 65).memRead 0x0080 = 3 := by decide
theorem test_wlen_high_bits_ignored : (State.reset.memWrite 0x0080 0x00010003).len 0 = 3 := by decide
theorem test_symbol_low_byte : (State.reset.memWrite 0x2000 0x1FF).memRead 0x2000 = 0xFF := by decide
theorem test_carry_read_only : (State.reset.memWrite 0x3000 5).mem = [] := by decide
theorem test_fetch_word_runs_next :
    nextIs (step (State.reset.withFetchWord 32 0x00000122)) (fun t => t.errcode == 0x0B && t.errinfo == 0x122) = true :=
  by decide

/-! ### Witnesses -/

theorem cfgOk_demo : ∀ cont, CfgOk (demoCfg cont) := by
  intro cont
  cases cont <;> constructor <;> decide

set_option maxRecDepth 100000 in
theorem inv_demo : ∀ cont, Inv (demo cont) := by
  intro cont
  cases cont
  · exact { mem_wf := by decide, mem_cells := by decide, len_le := by decide, cfg_ok := fun _ => cfgOk_demo false
            errcode_le := by decide, carries := by decide, remainder := by decide
            candidates := by decide, selection := by decide }
  · exact { mem_wf := by decide, mem_cells := by decide, len_le := by decide, cfg_ok := fun _ => cfgOk_demo true
            errcode_le := by decide, carries := by decide, remainder := by decide
            candidates := by decide, selection := by decide }

set_option maxRecDepth 100000 in
theorem inv_demoSel : Inv demoSel :=
  { mem_wf := by decide, mem_cells := by decide, len_le := by decide, cfg_ok := fun _ => cfgOk_demo false
    errcode_le := by decide, carries := by decide, remainder := by decide
    candidates := by decide, selection := by decide }

set_option maxRecDepth 100000 in
theorem inv_demoCand : Inv demoCand :=
  { mem_wf := by decide, mem_cells := by decide, len_le := by decide, cfg_ok := fun _ => cfgOk_demo false
    errcode_le := by decide, carries := by decide, remainder := by decide
    candidates := by decide, selection := by decide }

/-- `w1 = [1,0,1]` is a payload, `w2 = [1,1]`, and `w4 = [1,1,1,0]` is a codeword. -/
theorem demo_holds : ∀ cont, Holds (demo cont) 1 [1, 0, 1] ∧ Holds (demo cont) 2 [1, 1] ∧
    Holds (demo cont) 4 [1, 1, 1, 0] := by
  intro cont
  cases cont <;> exact ⟨⟨by decide, by decide, by decide⟩, ⟨by decide, by decide, by decide⟩,
    ⟨by decide, by decide, by decide⟩⟩

/-- A next state with a property, from its decision. -/
theorem nextIs_elim {o : Host.Outcome State Fault Refusal} {p : State → Bool} (h : nextIs o p = true) :
    ∃ t, o = .next t ∧ p t = true := by
  unfold nextIs at h
  split at h
  · exact ⟨_, rfl, h⟩
  · cases h

/-- Placing a command does not touch what the invariant speaks of. -/
theorem inv_latchCommand {s : State} (h : Inv s) (nbits w : Nat) : Inv (s.latchCommand nbits w) :=
  ⟨h.mem_wf, h.mem_cells, h.len_le, h.cfg_ok, h.errcode_le, h.carries, h.remainder, h.candidates, h.selection⟩

/-- The continuous configuration with another carry in slot 0. -/
def demoOther : State := (demo true).setCells (.slotCarry 0) [1, 1]

set_option maxRecDepth 100000 in
theorem inv_demoOther : Inv demoOther :=
  { mem_wf := by decide, mem_cells := by decide, len_le := by decide, cfg_ok := fun _ => cfgOk_demo true
    errcode_le := by decide, carries := by decide, remainder := by decide
    candidates := by decide, selection := by decide }

theorem witness_DecodeInvertsEncode : (Instr.scramble 15 0 255).wellFormed = true := by decide
theorem witness_DecodedWordsReencode : ∃ v i, Sys2Proof.decode v = .ok i := ⟨0xFF00FF20, _, test_decode_scramble⟩

theorem witness_StepExecutes_turn : ∃ s i, EngineTurn s ∧ Sys2Proof.decode s.cmdLatch = .ok i :=
  ⟨{ State.reset with phase := .busy, cmdLatch := 0x00000022 }, .select, by decide, by decide⟩
theorem witness_StepExecutes_host_later : ∃ s i, EngineTurn s ∧ s.host ≠ [] ∧ Sys2Proof.decode s.cmdLatch = .ok i :=
  ⟨{ State.reset with phase := .busy, cmdLatch := 0x00000022, host := [.wait] }, .select, by decide, by decide,
    by decide⟩
theorem witness_StepExecutes_fetchWord : ∃ n w i, decodeTableWord n w = some i :=
  ⟨32, 0x00521413, _, test_decode_table_word⟩
theorem witness_IllegalWords : ∃ s : State, EngineTurn s ∧ ∀ row ∈ opcodeTable, s.cmdLatch &&& row.2 ≠ row.1 :=
  ⟨{ State.reset with phase := .busy, cmdLatch := 0x00100010 }, by decide, by simp [opcodeTable]⟩

theorem witness_ConfigurationValidity_success : ∃ s t, exec .configure s = .next t ∧ t.errcode = 0 := by
  obtain ⟨t, h, ht⟩ := nextIs_elim (o := exec .configure (staged 2 4 1 3 2 2 0)) (p := (·.errcode == 0)) (by decide)
  exact ⟨_, t, h, by simpa using ht⟩
theorem witness_ConfigurationValidity_failure : ∃ s t, exec .configure s = .next t ∧ t.errcode ≠ 0 := by
  obtain ⟨t, h, ht⟩ := nextIs_elim (o := exec .configure (staged 2 4 0 3 2 2 0)) (p := (·.errcode != 0)) (by decide)
  exact ⟨_, t, h, by simpa using ht⟩
theorem witness_ConfigurationValidity_unconfigured : State.reset.cfgValid = false ∧ Instr.select ≠ .nop ∧
    Instr.select ≠ .configure ∧ Instr.select ≠ .resetState := by decide

/-- A command other than CONFIGURE that ends: for ConfigurationValidity, CompletedCommandsReturnToIdle,
ErrorCodesComeFromTheirCommands and CommandsKeepTheStaging. -/
theorem witness_command_ends : ∃ i s t, Inv s ∧ i.wellFormed = true ∧ i ≠ .configure ∧ exec i s = .next t ∧
    t.errcode = 0 := by
  obtain ⟨t, h, ht⟩ := nextIs_elim (o := exec (.scramble 15 1 1) (demo true)) (p := (·.errcode == 0)) (by decide)
  exact ⟨_, _, t, inv_demo true, by decide, by decide, h, by simpa using ht⟩
theorem witness_FailedCommands : ∃ i s t, exec i s = .next t ∧ t.errcode ≠ 0 := by
  obtain ⟨t, h, ht⟩ := nextIs_elim (o := exec (.wadd 2 1 1) State.reset) (p := (·.errcode != 0)) (by decide)
  exact ⟨_, _, t, h, by simpa using ht⟩
/-- The hypotheses of UnwrittenCellsAreRecorded at a first source register: the gap at its second cell, with the length
of each clause; register 2 of length 2 is the other source. -/
theorem witness_UnwrittenCells_rs1 : (gapState 1 2).cfgValid = true ∧
    FirstGap (gapState 1 2) (gapState 1 2).active.q (CellArray.wsym 9).base ((gapState 1 2).len 9) 1 ∧
    (gapState 1 2).len 9 = (gapState 1 2).len 2 ∧ 1 ≤ (gapState 1 2).len 2 ∧
    (gapState 1 2).len 9 + (gapState 1 2).len 2 - 1 ≤ 64 :=
  ⟨by decide, gapState_gap 2 (by simp), by decide, by decide, by decide⟩
theorem witness_UnwrittenCells_payload_and_codeword :
    (gapState 1 3).len 9 = (gapState 1 3).active.n - (gapState 1 3).active.m ∧
    1 < (gapState 1 3).active.N ∧ (gapState 1 4).len 9 = (gapState 1 4).active.n := by decide
/-- At a second source register: register 2 whole, register 9 with the gap. -/
theorem witness_UnwrittenCells_rs2 :
    WrittenWord (gapState 1 2) (gapState 1 2).active.q (CellArray.wsym 2).base ((gapState 1 2).len 2) := by
  have h1 : ∀ j, j < 2 → j = 0 ∨ j = 1 := fun j hj => by omega
  intro j hj
  rcases h1 j hj with rfl | rfl
  exacts [⟨1, by decide, by decide⟩, ⟨1, by decide, by decide⟩]

theorem witness_AnalyzerState_overflow : ∃ i s t, exec i s = .next t ∧ t.rdsOvf ≠ s.rdsOvf := by
  obtain ⟨t, h, ht⟩ := nextIs_elim (o := exec (.commit 3) { demoSel with rds := 0x7FFFFFFE }) (p := fun t => t.rdsOvf)
    (by decide)
  exact ⟨_, _, t, h, by simp only [ht]; decide⟩
theorem witness_AnalyzerStateAdvances : ∃ i s t, exec i s = .next t ∧ t.rds ≠ s.rds := by
  obtain ⟨t, h, ht⟩ := nextIs_elim (o := exec (.commit 3) demoSel) (p := fun t => t.rds != demoSel.rds) (by decide)
  exact ⟨_, _, t, h, by simpa using ht⟩
theorem witness_CarriesChange_slot : ∃ i s t, Inv s ∧ i.wellFormed = true ∧ exec i s = .next t ∧
    t.mem.read ((CellArray.slotCarry 1).addr 1) ≠ s.mem.read ((CellArray.slotCarry 1).addr 1) := by
  obtain ⟨t, h, ht⟩ := nextIs_elim (o := exec (.scramble 3 1 1) (demo true))
    (p := fun t => t.mem.read ((CellArray.slotCarry 1).addr 1) != (demo true).mem.read ((CellArray.slotCarry 1).addr 1))
    (by decide)
  exact ⟨_, _, t, inv_demo true, by decide, h, by simpa using ht⟩
theorem witness_CarriesChange_remainder : ∃ i s t, Inv s ∧ i.wellFormed = true ∧ exec i s = .next t ∧
    t.mem.read (CellArray.descRem.addr 1) ≠ s.mem.read (CellArray.descRem.addr 1) := by
  obtain ⟨t, h, ht⟩ := nextIs_elim (o := exec (.decode 3 4) (demo true))
    (p := fun t => t.mem.read (CellArray.descRem.addr 1) != (demo true).mem.read (CellArray.descRem.addr 1)) (by decide)
  exact ⟨_, _, t, inv_demo true, by decide, h, by simpa using ht⟩

theorem two_is_prime_power : ∃ p k, Nat.Prime p ∧ 1 ≤ k ∧ 2 = p ^ k := ⟨2, 1, by norm_num, by norm_num, by norm_num⟩

theorem witness_ResetState_block : Inv (demo false) ∧ (demo false).active.cont = false := ⟨inv_demo false, by decide⟩
theorem stagedLegal_of {n m d numAug : Nat} (h : 1 ≤ m ∧ m < n ∧ n ≤ 64 ∧ 2 ≤ d ∧ d ≤ 64 ∧ 1 ≤ numAug ∧ numAug ≤ 16) :
    StagedLegal (staged 2 n m d numAug 2 0) := by
  obtain ⟨h1, h2, h3, h4, h5, h6, h7⟩ := h
  have e : ∀ x, x ≤ 64 → (BitVec.ofNat 16 x).toNat = x := fun x hx => by
    rw [BitVec.toNat_ofNat]; exact Nat.mod_eq_of_lt (by omega)
  have em := e m (by omega)
  have en := e n h3
  have ed := e d h5
  have eN := e numAug (by omega)
  constructor <;> simp only [staged, setCells_cfgField, setCells_cfgCwlen, setCells_cfgAuglen, setCells_cfgDivlen,
    setCells_cfgNaug, setCells_cfgAlphabet, setCells_cfgMetricSel, em, en, ed, eN]
  all_goals first | assumption | exact two_is_prime_power | decide
theorem witness_ConfigureLatches : let s := staged 2 4 1 3 2 2 0
    StagedLegal s ∧ ValidWord s.cfgField.toNat s.stagedDivisor ∧
    ∀ x, x < s.cfgNaug.toNat → ValidWord s.cfgField.toNat (s.stagedAug x) :=
  ⟨stagedLegal_of (by decide), by decide, by decide⟩
/-- CONFIGURE comes upon cell 3 of a divisor of length 4 of which three cells are staged, or upon the one cell of an
augmenting word 2 that is not staged. -/
theorem witness_UnwrittenCells_divisor : StagedLegal (staged 2 4 1 4 2 2 0) ∧
    FirstGap (staged 2 4 1 4 2 2 0) 2 CellArray.divisorStg.base 4 3 := by
  have h3 : ∀ j, j < 3 → j = 0 ∨ j = 1 ∨ j = 2 := fun j hj => by omega
  refine ⟨stagedLegal_of (by decide), by decide, fun j hj => ?_, by decide⟩
  rcases h3 j hj with rfl | rfl | rfl
  exacts [⟨1, by decide, by decide⟩, ⟨0, by decide, by decide⟩, ⟨1, by decide, by decide⟩]
theorem witness_UnwrittenCells_augmenting : let s := staged 2 4 1 3 3 2 0
    StagedLegal s ∧ WrittenWord s 2 CellArray.divisorStg.base 3 ∧
    (∀ y, y < 2 → WrittenWord s 2 (CellArray.augStg y).base 1) ∧ FirstGap s 2 (CellArray.augStg 2).base 1 0 := by
  have h3 : ∀ j, j < 3 → j = 0 ∨ j = 1 ∨ j = 2 := fun j hj => by omega
  have h2 : ∀ j, j < 2 → j = 0 ∨ j = 1 := fun j hj => by omega
  refine ⟨stagedLegal_of (by decide), fun j hj => ?_, fun y hy j hj => ?_, by decide, fun j hj => ?_, by decide⟩
  · rcases h3 j hj with rfl | rfl | rfl
    exacts [⟨1, by decide, by decide⟩, ⟨0, by decide, by decide⟩, ⟨1, by decide, by decide⟩]
  · obtain rfl : j = 0 := by omega
    rcases h2 y hy with rfl | rfl
    exacts [⟨0, by decide, by decide⟩, ⟨1, by decide, by decide⟩]
  · omega
theorem witness_ConfigureReports_m : (staged 2 4 0 3 2 2 0).cfgAuglen.toNat < 1 := by decide
theorem witness_ConfigureReports_n : 1 ≤ (staged 2 1 1 3 2 2 0).cfgAuglen.toNat ∧
    (staged 2 1 1 3 2 2 0).cfgCwlen.toNat ≤ (staged 2 1 1 3 2 2 0).cfgAuglen.toNat := by decide
theorem witness_ConfigureReports_d : (staged 2 2 1 1 2 2 0).cfgAuglen.toNat < (staged 2 2 1 1 2 2 0).cfgCwlen.toNat ∧
    (staged 2 2 1 1 2 2 0).cfgDivlen.toNat < 2 := by decide
theorem witness_ConfigureReports_q : 256 < (staged 257 4 1 2 2 2 0).cfgField.toNat ∧
    2 ≤ (staged 257 4 1 2 2 2 0).cfgDivlen.toNat := by decide
theorem witness_ConfigureReports_q_not_prime_power : (staged 1 4 1 2 2 1 0).cfgField.toNat = 1 ∧
    ¬ ∃ p k, Nat.Prime p ∧ 1 ≤ k ∧ 1 = p ^ k := by
  refine ⟨by decide, ?_⟩
  rintro ⟨p, k, hp, hk, h⟩
  exact absurd h.symm (Nat.one_lt_pow (by omega) hp.one_lt).ne'
theorem witness_ConfigureReports_method : (staged 2 4 1 2 2 3 0).cfgField.toNat = 2 ∧
    (staged 2 4 1 2 2 3 0).cfgAlphabet.toNat ≠ 2 ∧ (staged 2 4 1 2 2 2 1).cfgMetricSel ≠ 0 := by decide
theorem witness_ConfigureReports_overflow : 64 < (staged 2 65 1 2 2 2 0).cfgCwlen.toNat ∧
    64 < (staged 2 4 1 65 2 2 0).cfgDivlen.toNat ∧ (staged 2 65 1 2 2 2 0).cfgAlphabet.toNat = 2 ∧
    (staged 2 65 1 2 2 2 0).cfgMetricSel = 0 := by decide
theorem witness_ConfigureReports_slots : (staged 2 64 1 64 0 2 0).cfgNaug.toNat < 1 ∧
    16 < (staged 2 64 1 64 17 2 0).cfgNaug.toNat ∧ (staged 2 64 1 64 17 2 0).cfgCwlen.toNat ≤ 64 ∧
    (staged 2 64 1 64 17 2 0).cfgDivlen.toNat ≤ 64 := by decide
theorem witness_ConfigureReports_divisor_symbol :
    FirstBad 2 ((staged 2 4 1 3 2 2 0).setCells .divisorStg [1, 2, 1]).stagedDivisor 1 :=
  ⟨by decide, by decide, by decide⟩
theorem witness_ConfigureReports_augmenting_symbol : let s := (staged 2 4 1 3 2 2 0).setCells (.augStg 1) [2]
    ValidWord 2 s.stagedDivisor ∧ (∀ y, y < 1 → ValidWord 2 (s.stagedAug y)) ∧ FirstBad 2 (s.stagedAug 1) 0 :=
  ⟨by decide, by decide, by decide, by decide, by decide⟩
/-- For WaddWritesTheElementwiseSum and WmulWritesTheElementwiseProduct. -/
theorem witness_elementwise : Inv (demo true) ∧ (demo true).cfgValid = true ∧ Holds (demo true) 1 [1, 0, 1] :=
  ⟨inv_demo true, by decide, (demo_holds true).1⟩
/-- For PmulWritesThePolynomialProduct and PdivmodWritesQuotientAndRemainder. -/
theorem witness_polynomial : Inv (demo true) ∧ (demo true).cfgValid = true ∧ Holds (demo true) 1 [1, 0, 1] ∧
    Holds (demo true) 2 [1, 1] ∧ Nat.gcd (([1, 1] : Word).getD 0 0) (demo true).active.q = 1 :=
  ⟨inv_demo true, by decide, (demo_holds true).1, (demo_holds true).2.1, by decide⟩
theorem witness_ElementwiseErrors_lengths : (demo false).cfgValid = true ∧ (demo false).len 1 ≠ (demo false).len 2 := by
  decide
/-- A first symbol out of range in the first source register, below a gap, and in the second one. -/
theorem witness_symbolErrors_rs1 : FirstBad (gapState 2 2).active.q ((gapState 2 2).seenReg 9) 0 ∧
    (gapState 2 2).cfgValid = true ∧ (gapState 2 2).len 9 = (gapState 2 2).len 2 :=
  ⟨⟨by decide, by decide, by decide⟩, by decide, by decide⟩
/-- For ElementwiseCommandsReportTheirErrors, PmulReportsItsErrors and PdivmodReportsItsErrors. -/
theorem witness_symbolErrors_rs2 : let s := wordState 2 [0, 1] [1, 2]
    s.cfgValid = true ∧ s.len 1 = s.len 2 ∧ s.len 1 + s.len 2 - 1 ≤ 64 ∧ ValidWord s.active.q (s.seenReg 1) ∧
    FirstBad s.active.q (s.seenReg 2) 1 :=
  ⟨by decide, by decide, by decide, by decide, by decide, by decide, by decide⟩
theorem witness_PmulErrors_empty : (demo false).len 0 = 0 ∧ (demo false).cfgValid = true := by decide
theorem witness_PmulErrors_overflow : let s := { demo false with wlen := ((demo false).wlen.set 8 64).set 9 2 }
    1 ≤ s.len 8 ∧ 1 ≤ s.len 9 ∧ 64 < s.len 8 + s.len 9 - 1 := by decide

theorem witness_PdivmodErrors_empty : (3 : Nat) ≠ 4 ∧ (demo false).len 0 = 0 ∧ (demo false).cfgValid = true := by decide

theorem witness_PdivmodErrors_unit : let s := wordState 4 [1, 2, 3] [2, 1]
    1 ≤ s.len 2 ∧ ValidWord s.active.q (s.seenReg 1) ∧ ValidWord s.active.q (s.seenReg 2) ∧
    Nat.gcd ((s.seenReg 2).getD 0 0) s.active.q ≠ 1 := by decide

theorem witness_Product : 1 ≤ ([2] : Word).length ∧ 1 ≤ ([3, 1] : Word).length := by decide
theorem witness_DivisionIdentity : 2 ≤ 5 ∧ ValidWord 5 [3] ∧ ValidWord 5 [1] ∧ 1 ≤ ([1] : Word).length ∧
    Nat.gcd (([1] : Word).getD 0 0) 5 = 1 := by decide
theorem witness_DivisionIdentity_unique : polyOf 5 [3] = polyOf 5 [3] * polyOf 5 [1] + polyOf 5 [] := by
  simp [polyOf]
theorem witness_UnitsHaveOneInverse : 2 ≤ 7 ∧ Nat.gcd 3 7 = 1 ∧ mulq 7 3 5 = 1 := by decide

/-- For ScramblingFunctionsWrittenOut, in both modes. -/
theorem witness_ScramblingFunctionsWrittenOut : 2 ≤ 5 ∧ 2 ≤ 3 ∧ 1 < 4 ∧ ([2, 0, 1] : Word).length = 3 ∧
    ([1, 2, 3, 4] : Word).length = 4 ∧ ([4, 3] : Word).length = 3 - 1 ∧ ValidWord 5 [2, 0, 1] ∧
    ValidWord 5 [1, 2, 3, 4] ∧ ValidWord 5 [4, 3] ∧ Nat.gcd (([2, 0, 1] : Word).getD 0 0) 5 = 1 := by decide

theorem witness_ScrambleRunsOneSlot : ∀ cont, ∃ c c' : Word, Inv (demo cont) ∧ (demo cont).cfgValid = true ∧
    Holds (demo cont) 1 [1, 0, 1] ∧ 1 < (demo cont).active.N ∧
    ([1, 0, 1] : Word).length = (demo cont).active.n - (demo cont).active.m ∧
    (c, c') = scr (demo cont).active.q (demo cont).active.n (demo cont).active.d (demo cont).active.cont
      (demo cont).active.g ((demo cont).active.aug.getD 1 [] ++ [1, 0, 1]) ((demo cont).carry 1) := by
  intro cont
  refine ⟨_, _, inv_demo cont, ?_, (demo_holds cont).1, ?_, ?_, rfl⟩ <;> cases cont <;> decide
/-- For CandidatesRunsEverySlot and EncodeIsCandidatesSelectCommit. -/
theorem witness_payload : ∀ cont, Inv (demo cont) ∧ (demo cont).cfgValid = true ∧ Holds (demo cont) 1 [1, 0, 1] ∧
    ([1, 0, 1] : Word).length = (demo cont).active.n - (demo cont).active.m := by
  intro cont
  refine ⟨inv_demo cont, ?_, (demo_holds cont).1, ?_⟩ <;> cases cont <;> decide
theorem witness_ScramblingErrors_slot : (demo true).cfgValid = true ∧ (demo true).active.N ≤ 2 := by decide
theorem witness_ScramblingErrors_length :
    (demo true).len 2 ≠ (demo true).active.n - (demo true).active.m ∧ 1 < (demo true).active.N := by decide
theorem witness_ScramblingErrors_symbol :
    (gapState 2 3).len 9 = (gapState 2 3).active.n - (gapState 2 3).active.m ∧
    FirstBad (gapState 2 3).active.q ((gapState 2 3).seenReg 9) 0 := ⟨by decide, by decide, by decide, by decide⟩

theorem witness_SlotsAreIsolated : ∃ t t', Inv (demo true) ∧ Inv demoOther ∧ (Instr.candidates 1).wellFormed = true ∧
    demoOther.active = (demo true).active ∧ demoOther.cfgValid = (demo true).cfgValid ∧
    demoOther.len 1 = (demo true).len 1 ∧ demoOther.seenReg 1 = (demo true).seenReg 1 ∧
    (∀ k, k < 64 → demoOther.mem.read ((CellArray.slotCarry 1).addr k) =
      (demo true).mem.read ((CellArray.slotCarry 1).addr k)) ∧
    exec (.candidates 1) (demo true) = .next t ∧ exec (.candidates 1) demoOther = .next t' ∧
    t'.errcode = t.errcode := by
  obtain ⟨t, h, ht⟩ := nextIs_elim (o := exec (.candidates 1) (demo true)) (p := (·.errcode == 0)) (by decide)
  obtain ⟨t', h', ht'⟩ := nextIs_elim (o := exec (.candidates 1) demoOther) (p := (·.errcode == 0)) (by decide)
  simp only [beq_iff_eq] at ht ht'
  exact ⟨t, t', inv_demo true, inv_demoOther, by decide, by decide, by decide, by decide, by decide, by decide, h, h',
    ht'.trans ht.symm⟩

theorem demo_carriesEqual : CarriesEqual (demo true) := by
  intro x y hx hy
  have hx' : x < 2 := hx
  have hy' : y < 2 := hy
  interval_cases x <;> interval_cases y <;> decide

theorem witness_CarriesStayEqual : ∃ t, Inv (demo true) ∧ (demo true).cfgValid = true ∧
    (demo true).active.d - 1 ≤ (demo true).active.n - (demo true).active.m ∧
    (∀ rd rs1 slot, Instr.candidates 1 ≠ .scramble rd rs1 slot) ∧ CarriesEqual (demo true) ∧
    exec (.candidates 1) (demo true) = .next t := by
  obtain ⟨t, h, _⟩ := nextIs_elim (o := exec (.candidates 1) (demo true)) (p := fun _ => true) (by decide)
  exact ⟨t, inv_demo true, by decide, by decide, by simp, demo_carriesEqual, h⟩

theorem witness_SelectPicks : Inv demoCand ∧ demoCand.cfgValid = true ∧ demoCand.candValid = true :=
  ⟨inv_demoCand, by decide, by decide⟩
theorem witness_CommitEmits : Inv demoSel ∧ demoSel.cfgValid = true ∧ demoSel.selValid = true :=
  ⟨inv_demoSel, by decide, by decide⟩
theorem witness_SelectAndCommitErrors :
    (demo true).cfgValid = true ∧ (demo true).candValid = false ∧ (demo true).selValid = false := by decide

theorem witness_DecodeWritesThePayload : ∀ cont, ∃ p r : Word, Inv (demo cont) ∧ (demo cont).cfgValid = true ∧
    Holds (demo cont) 4 [1, 1, 1, 0] ∧ ([1, 1, 1, 0] : Word).length = (demo cont).active.n ∧
    Nat.gcd ((demo cont).active.g.getD 0 0) (demo cont).active.q = 1 ∧
    (p, r) = dsc (demo cont).active.q (demo cont).active.n (demo cont).active.m (demo cont).active.d
      (demo cont).active.cont (demo cont).active.g [1, 1, 1, 0] (demo cont).descRem := by
  intro cont
  refine ⟨_, _, inv_demo cont, ?_, (demo_holds cont).2.2, ?_, ?_, rfl⟩ <;> cases cont <;> decide
theorem witness_DecodeErrors_length : (demo true).cfgValid = true ∧ (demo true).len 1 ≠ (demo true).active.n := by
  decide
theorem witness_DecodeErrors_symbol : (gapState 2 4).len 9 = (gapState 2 4).active.n ∧
    FirstBad (gapState 2 4).active.q ((gapState 2 4).seenReg 9) 0 := ⟨by decide, by decide, by decide, by decide⟩
theorem witness_DecodeErrors_unit : let s := { demo true with active := { demoCfg true with g := [0, 1, 1] } }
    s.len 4 = s.active.n ∧ ValidWord s.active.q (s.seenReg 4) ∧ Nat.gcd (s.active.g.getD 0 0) s.active.q ≠ 1 := by
  decide

theorem witness_BlockRoundTrip : Inv (demo false) ∧ (demo false).cfgValid = true ∧ (demo false).active.cont = false ∧
    Nat.gcd ((demo false).active.g.getD 0 0) (demo false).active.q = 1 ∧ 1 < (demo false).active.N ∧
    Holds (demo false) 1 [1, 0, 1] ∧
    ([1, 0, 1] : Word).length = (demo false).active.n - (demo false).active.m :=
  ⟨inv_demo false, by decide, by decide, by decide, by decide, (demo_holds false).1, by decide⟩
/-- For ContinuousFixedSlotRoundTrip and GuidedContinuousRoundTrip. -/
theorem witness_continuousRoundTrips : Inv (demo true) ∧ (demo true).cfgValid = true ∧
    (demo true).active.cont = true ∧ Nat.gcd ((demo true).active.g.getD 0 0) (demo true).active.q = 1 ∧
    1 < (demo true).active.N ∧ Holds (demo true) 1 [1, 0, 1] ∧
    ([1, 0, 1] : Word).length = (demo true).active.n - (demo true).active.m ∧
    (demo true).active.d - 1 ≤ (demo true).active.n - (demo true).active.m ∧ CarriesEqual (demo true) ∧
    (demo true).descRem = ((demo true).carry 0).map (negq (demo true).active.q) ∧
    (demo true).descRem = ((demo true).carry 1).map (negq (demo true).active.q) :=
  ⟨inv_demo true, by decide, by decide, by decide, by decide, (demo_holds true).1, by decide, by decide,
    demo_carriesEqual, by decide, by decide⟩

theorem witness_SymbolCells_arrays :
    (staged 2 4 1 3 2 2 0).mem.read (CellArray.divisorStg.addr 0) = some 1 ∧
    (staged 2 4 1 3 2 2 0).mem.read ((CellArray.augStg 1).addr 0) = some 1 ∧
    (demo true).mem.read ((CellArray.wsym 1).addr 0) = some 1 ∧
    demoCand.mem.read ((CellArray.cand 1).addr 0) = some 1 := by decide
theorem witness_SymbolCells_carries : demoOther.active.d - 1 = 2 ∧
    demoOther.mem.read ((CellArray.slotCarry 0).addr 1) = some 1 ∧
    demoOther.mem.read ((CellArray.slotCarry 0).addr 2) = some 0 ∧
    demoOther.mem.read (CellArray.descRem.addr 63) = some 0 := by decide
theorem witness_SymbolWrites : 15 < 16 ∧ 63 < 64 ∧ BitVec.ofNat 16 ((CellArray.wsym 15).addr 63) = 0x2FFC := by decide
theorem witness_LengthWrites : (64#32).extractLsb' 0 16 = 64#16 ∧ (65#32).extractLsb' 0 16 = 65#16 := by decide
theorem witness_ReadOnlyAndReserved : ([0x0000, 0x000C, 0x003C, 0x005C, 0x007C, 0x00C0, 0x00FC, 0x0200, 0x0FFC,
    0x3000, 0x5000, 0xFFFC] : List Addr).all (fun a => a.toNat % 4 == 0) = true := by rfl

theorem witness_IdleHostAccesses : ∃ s : State, s.phase = .idle ∧ (0x2000 : Addr).toNat % 4 = 0 ∧
    s.host = [.read 32 0x2000, .read 32 0x2000] :=
  ⟨{ State.reset with host := [.read 32 0x2000, .read 32 0x2000] }, by decide, by decide, by decide⟩
theorem witness_IdleHostAccesses_write : ∃ s : State, s.phase = .idle ∧ s.host = [.write 32 0x2000 1] :=
  ⟨{ State.reset with host := [.write 32 0x2000 1] }, by decide, by decide⟩
theorem witness_Meaningless_alignment : ∃ s : State, (s.phase = .idle ∨ 0 < s.hostTurns) ∧
    ¬ (32 = 32 ∧ (0x0002 : Addr).toNat % 4 = 0) ∧ s.host = [.read 32 0x0002, .write 16 0x0004 0] :=
  ⟨{ State.reset with host := [.read 32 0x0002, .write 16 0x0004 0] }, by decide, by decide, by decide⟩
theorem witness_Meaningless_busy : ∀ op ∈ [HostOp.write 32 0x2000 1, .read 32 0x2000, .read 32 0x0004], ∃ s : State,
    s.phase = .busy ∧ 0 < s.hostTurns ∧ s.host = [op] := by
  intro op _
  exact ⟨{ State.reset with phase := .busy, hostTurns := 1, host := [op] }, rfl, Nat.one_pos, rfl⟩
theorem witness_ResetInput : ∃ s : State, s.host = [.reset] ∧ s.phase = .busy ∧ 0 < s.hostTurns :=
  ⟨{ State.reset with phase := .busy, hostTurns := 1, host := [.reset] }, by decide, by decide, by decide⟩
theorem witness_HandshakeEnds : ∃ s : State, s.phase = .idle ∧ s.host = [.write 32 0x0008 0x22, .wait] :=
  ⟨{ State.reset with host := [.write 32 0x0008 0x22, .wait] }, by decide, by decide⟩
theorem witness_EveryStepKeepsTheInvariant : ∃ s t, Inv s ∧ s.phase = .busy ∧ step s = .next t := by
  obtain ⟨t, h, _⟩ := nextIs_elim (o := step ((demo true).latchCommand 32 0x01001320)) (p := fun _ => true) (by decide)
  exact ⟨_, t, inv_latchCommand (inv_demo true) 32 0x01001320, by decide, h⟩

end Sys2Proof.Tests
end

section
/-! SUPPORT. The rule a command runs, as one function of the command, and what every command's end says about it. -/

namespace Sys2Proof.Machine

/-! ### One rule per command -/

/-- The commands that fail without a valid configuration (30_encoding.md R71). -/
def needsConfig : Instr → Bool
  | .nop | .configure | .resetState => false
  | _ => true

/-- The rule of a command, after the check of `CFG_VALID`. -/
def bodyRule (s : State) : Instr → Checked State
  | .nop => done s
  | .configure => configureRule s
  | .resetState => done s.resetRunning
  | .wadd rd rs1 rs2 => elementwise addq rd rs1 rs2 s
  | .wmul rd rs1 rs2 => elementwise mulq rd rs1 rs2 s
  | .pmul rd rs1 rs2 => pmulRule rd rs1 rs2 s
  | .pdivmod rd rd2 rs1 rs2 => pdivmodRule rd rd2 rs1 rs2 s
  | .scramble rd rs1 slot => scrambleRule rd rs1 slot s
  | .candidates rs1 => candidatesRule rs1 s
  | .select => selectRule s
  | .commit rd => commitRule rd s
  | .encode rd rs1 => encodeRule rd rs1 s
  | .decode rd rs1 => decodeRule rd rs1 s

/-- The whole rule of a command: the check of `CFG_VALID`, where the command has one, and then its body. -/
def commandRule (i : Instr) (s : State) : Checked State :=
  if needsConfig i then configured s (bodyRule s i) else bodyRule s i

/-- Executing a command is ending it with the outcome of its rule. -/
theorem exec_eq_complete (i : Instr) (s : State) : exec i s = complete s (commandRule i s) := by
  cases i <;> rfl

theorem needsConfig_iff {i : Instr} : needsConfig i = true ↔ i ≠ .nop ∧ i ≠ .configure ∧ i ≠ .resetState := by
  cases i <;> simp [needsConfig]

/-- The check of `CFG_VALID` only stands in front: what the whole rule answers, the body answers. -/
theorem bodyRule_ok_of_commandRule {i : Instr} {s t : State} (h : (commandRule i s).result = .ok t) :
    (bodyRule s i).result = .ok t := by
  unfold commandRule at h
  split at h
  · exact (configured_ok_iff.1 h).2
  · exact h

/-- No error is reported as success. -/
theorem errCode_ne_zero (c : ErrCode) : c.code ≠ 0 := by
  intro h
  have hpos := (errCode_range c).1
  rw [h] at hpos
  exact absurd hpos (by decide)

/-- A command that ends without an error has run its body to a result. -/
theorem exec_success {i : Instr} {s t : State} (h : exec i s = .next t) (ht : t.errcode = 0) :
    ∃ u x, (bodyRule s i).result = .ok u ∧ t = u.succeed.recordFault x := by
  rw [exec_eq_complete, complete_next_iff] at h
  obtain ⟨u, hu, rfl⟩ | ⟨c, -, rfl⟩ := h
  · exact ⟨u, _, bodyRule_ok_of_commandRule hu, rfl⟩
  · exact absurd (by simpa using ht) (errCode_ne_zero c)

/-- A command that ends with an error has taken the error protocol and nothing else. -/
theorem exec_failure {i : Instr} {s t : State} (h : exec i s = .next t) (ht : t.errcode ≠ 0) :
    ∃ c x, t = (s.raiseErr c).recordFault x := by
  rw [exec_eq_complete, complete_next_iff] at h
  obtain ⟨u, -, rfl⟩ | ⟨c, -, rfl⟩ := h
  · simp at ht
  · exact ⟨c, _, rfl⟩

/-! ### What the rules other than CONFIGURE's may change -/

/-- `t` differs from `s` in nothing but the symbol cells, the register lengths and the Analyzer and selection state:
the staging registers, the active configuration, `CFG_VALID`, the error record, the phase, the record of the model
faults and the host's side are those of `s`. -/
def KeepsConfig (s t : State) : Prop :=
  t = { s with
    mem := t.mem, wlen := t.wlen, rds := t.rds, rdsOvf := t.rdsOvf, candValid := t.candValid
    selPending := t.selPending, metric := t.metric, selValid := t.selValid, sel := t.sel, wordcount := t.wordcount }

theorem KeepsConfig.trans {s t u : State} (h : KeepsConfig s t) (h' : KeepsConfig t u) : KeepsConfig s u := by
  unfold KeepsConfig at h h' ⊢
  exact h'.trans (by rw [h])

theorem KeepsConfig.cfgValid {s t : State} (h : KeepsConfig s t) : t.cfgValid = s.cfgValid := by
  rw [h]

theorem keepsConfig_setReg (s : State) (rd : Nat) (w : Word) : KeepsConfig s (s.setReg rd w) := rfl

theorem keepsConfig_setCells (s : State) (arr : CellArray) (w : Word) : KeepsConfig s (s.setCells arr w) := rfl

theorem keepsConfig_updateRds (s : State) (c : Word) : KeepsConfig s (s.updateRds c) := by
  unfold State.updateRds
  dsimp only
  split
  · rfl
  · split <;> rfl

/-- SCRAMBLE and DECODE write a register and, in continuous mode, a carry as well. -/
theorem keepsConfig_setReg_carry (s : State) (cont : Bool) (rd : Nat) (arr : CellArray) (w r : Word) :
    KeepsConfig s (if cont then (s.setReg rd w).setCells arr r else s.setReg rd w) := by
  split
  · exact (keepsConfig_setReg s rd w).trans (keepsConfig_setCells _ arr r)
  · exact keepsConfig_setReg s rd w

theorem keepsConfig_candidatesRule {rs1 : Nat} {s t : State} (h : (candidatesRule rs1 s).result = .ok t) :
    KeepsConfig s t := by
  obtain ⟨p, -, rfl⟩ := candidatesRule_ok h
  rw [storeCandidates_eq]
  rfl

theorem keepsConfig_selectRule {s t : State} (h : (selectRule s).result = .ok t) : KeepsConfig s t := by
  obtain ⟨-, m0, ms, -, -, rfl⟩ := selectRule_ok h
  rfl

theorem keepsConfig_commitRule {rd : Nat} {s t : State} (h : (commitRule rd s).result = .ok t) :
    KeepsConfig s t := by
  obtain ⟨-, c, -, rfl⟩ := commitRule_ok h
  have hrds : KeepsConfig s ((s.setReg rd c).updateRds c) :=
    (keepsConfig_setReg s rd c).trans (keepsConfig_updateRds _ c)
  exact hrds.trans rfl

/-- No rule but CONFIGURE's writes the configuration (10_state.md R31). -/
theorem bodyRule_keepsConfig {i : Instr} {s t : State} (hi : i ≠ .configure) (h : (bodyRule s i).result = .ok t) :
    KeepsConfig s t := by
  cases i with
  | nop => cases h; rfl
  | configure => exact absurd rfl hi
  | resetState => cases h; rfl
  | wadd rd rs1 rs2 =>
    obtain ⟨-, a, b, -, -, rfl⟩ := elementwise_ok_iff.1 h
    exact keepsConfig_setReg _ _ _
  | wmul rd rs1 rs2 =>
    obtain ⟨-, a, b, -, -, rfl⟩ := elementwise_ok_iff.1 h
    exact keepsConfig_setReg _ _ _
  | pmul rd rs1 rs2 =>
    obtain ⟨-, -, -, a, b, -, -, rfl⟩ := pmulRule_ok h
    exact keepsConfig_setReg _ _ _
  | pdivmod rd rd2 rs1 rs2 =>
    obtain ⟨-, -, a, b, -, -, -, rfl⟩ := pdivmodRule_ok h
    exact (keepsConfig_setReg _ _ _).trans (keepsConfig_setReg _ _ _)
  | scramble rd rs1 slot =>
    obtain ⟨-, p, -, rfl⟩ := scrambleRule_ok h
    exact keepsConfig_setReg_carry _ _ _ _ _ _
  | candidates rs1 => exact keepsConfig_candidatesRule h
  | select => exact keepsConfig_selectRule h
  | commit rd => exact keepsConfig_commitRule h
  | encode rd rs1 =>
    obtain ⟨s1, h1, s2, h2, h3⟩ := encodeRule_ok_iff.1 h
    exact ((keepsConfig_candidatesRule h1).trans (keepsConfig_selectRule h2)).trans (keepsConfig_commitRule h3)
  | decode rd rs1 =>
    obtain ⟨-, c, -, -, rfl⟩ := decodeRule_ok h
    exact keepsConfig_setReg_carry _ _ _ _ _ _

end Sys2Proof.Machine
end

section
/-! SUPPORT. The reset memory and the length registers at the host interface. -/

namespace Sys2Proof.Machine

/-! ### The memory at reset (10_state.md R40) -/

/-- The register or slot an array belongs to; 0 for the two arrays that stand alone. -/
def CellArray.index : CellArray → Nat
  | .divisorStg | .descRem => 0
  | .augStg x | .wsym x | .slotCarry x | .cand x => x

/-- The arrays that reset clears to 0 instead of leaving unwritten (10_state.md R32, R33). -/
def CellArray.isCarry : CellArray → Bool
  | .descRem | .slotCarry _ => true
  | _ => false

theorem isCarryAddr_iff {a : Nat} :
    isCarryAddr a = true ↔ (0x0200 ≤ a ∧ a < 0x0300) ∨ (0x3000 ≤ a ∧ a < 0x4000) := by
  simp [isCarryAddr]

/-- Inside the address map, the carry windows hold exactly the cells of the carries and the remainder. -/
theorem isCarryAddr_addr {arr : CellArray} {k : Nat} (hx : arr.index < 16) (hk : k < 64) :
    isCarryAddr (arr.addr k) = arr.isCarry := by
  rw [Bool.eq_iff_iff, isCarryAddr_iff]
  cases arr <;> simp only [CellArray.index, CellArray.addr, CellArray.base, CellArray.isCarry, iff_true,
    Bool.false_eq_true, iff_false] at hx ⊢ <;> omega

/-- At reset a cell of a carry or of the remainder is 0 and every other cell is unwritten. -/
theorem reset_read {arr : CellArray} {k : Nat} (hx : arr.index < 16) (hk : k < 64) :
    State.reset.mem.read (arr.addr k) = if arr.isCarry then some 0 else none := by
  rw [← isCarryAddr_addr hx hk]
  rfl

theorem reset_len {i : Nat} (hi : i < 16) : State.reset.len i = 0 := by
  simp [State.len, State.reset, hi]

/-! ### `WLEN[i]` (10_state.md R23) -/

theorem locOf_wlen {i : Nat} (hi : i < 16) : locOf (BitVec.ofNat 16 (0x0080 + 4 * i)).toNat = .wlen i := by
  rw [BitVec.toNat_ofNat, Nat.mod_eq_of_lt (by omega)]
  unfold locOf
  rw [if_neg (by omega), if_pos (by omega)]
  congr 1
  omega

theorem memRead_wlen (s : State) {i : Nat} (hi : i < 16) :
    s.memRead (BitVec.ofNat 16 (0x0080 + 4 * i)) = BitVec.ofNat 32 (s.len i) := by
  unfold State.memRead
  rw [locOf_wlen hi]
  rfl

theorem memWrite_wlen (s : State) {i : Nat} (v : Word32) (hi : i < 16) :
    s.memWrite (BitVec.ofNat 16 (0x0080 + 4 * i)) v = { s.writeLen i v with epoch := s.epoch + 1 } := by
  unfold State.memWrite
  rw [locOf_wlen hi]
  rfl

/-- A length up to 64 in bits 15:0 is stored. -/
theorem writeLen_legal (s : State) (i : Nat) {v : Word32} (hv : (v.extractLsb' 0 16).toNat ≤ 64) :
    s.writeLen i v = { s with wlen := s.wlen.setIfInBounds i (v.extractLsb' 0 16).toNat } := by
  rw [← BitVec.setWidth_eq_extractLsb' (by decide)] at hv ⊢
  exact if_pos hv

/-- A length above 64 in bits 15:0 is ignored. -/
theorem writeLen_illegal (s : State) (i : Nat) {v : Word32} (hv : 64 < (v.extractLsb' 0 16).toNat) :
    s.writeLen i v = s := by
  rw [← BitVec.setWidth_eq_extractLsb' (by decide)] at hv
  exact if_neg (Nat.not_le.2 hv)

/-- Setting one length is seen at its own register and nowhere else. -/
theorem len_of_wlen_setIfInBounds {s t : State} {i l : Nat} (h : t.wlen = s.wlen.setIfInBounds i l) (hi : i < 16)
    (j : Nat) : t.len j = if j = i then l else s.len j := by
  unfold State.len
  rw [h, Vector.getElem?_setIfInBounds]
  by_cases hj : i = j
  · subst hj; simp [hi]
  · simp [hj, Ne.symm hj]

end Sys2Proof.Machine
end

section
/-! PROOFS. The obligations of 10_state.md. -/

namespace Sys2Proof.Machine

/-- Settles O9: a success has run the command's body, whose only writer of the configuration is CONFIGURE's latch; a
failure has taken the error protocol, which writes no part of it. -/
theorem configurationValidity : Obligations.ConfigurationValidity := by
  refine ⟨rfl, ?success, ?others, ?failure, ?unconfigured⟩
  case success =>
    intro s t h ht
    obtain ⟨u, x, hu, rfl⟩ := exec_success h ht
    obtain ⟨g, aug, -, -, -, rfl⟩ := configureRule_ok hu
    simp
  case others =>
    intro i s t hi h
    by_cases ht : t.errcode = 0
    · obtain ⟨u, x, hu, rfl⟩ := exec_success h ht
      simpa using (bodyRule_keepsConfig hi hu).cfgValid
    · obtain ⟨c, x, rfl⟩ := exec_failure h ht
      simp
  case failure =>
    intro s t h ht
    obtain ⟨c, x, rfl⟩ := exec_failure h ht
    simp
  case unconfigured =>
    intro i s hnop hconf hreset hv
    rw [exec_eq_complete, commandRule, if_pos (needsConfig_iff.2 ⟨hnop, hconf, hreset⟩), configured_of_invalid _ hv,
      complete_raise, raiseErr_eq_failedWith]
    rfl

/-- Settles O51: the address is `WLEN[i]`'s, and the write stores bits 15:0 or leaves the lengths. -/
theorem lengthWritesAreLegalised : Obligations.LengthWritesAreLegalised := by
  intro s i v hi
  refine ⟨fun hv => ?legal, fun hv => ?illegal, memRead_wlen s hi, reset_len hi⟩
  case legal =>
    rw [memWrite_wlen s v hi, writeLen_legal s i hv]
    have hlen := len_of_wlen_setIfInBounds (s := s) (l := (v.extractLsb' 0 16).toNat)
      (t := { s with wlen := s.wlen.setIfInBounds i (v.extractLsb' 0 16).toNat, epoch := s.epoch + 1 }) rfl hi
    exact ⟨by rw [hlen, if_pos rfl], fun j hj => by rw [hlen, if_neg hj], rfl⟩
  case illegal => rw [memWrite_wlen s v hi, writeLen_illegal s i hv]

/-- Settles O6: the cells by the reset memory, which lists nothing; every other element by its value in the state. -/
theorem resetLeavesTheStatedValues : Obligations.ResetLeavesTheStatedValues := by
  refine ⟨fun _ => reset_len, fun _ _ hi hk => reset_read hi hk, rfl, rfl, rfl, rfl, rfl, rfl, rfl, rfl, rfl, rfl,
    fun _ hk => reset_read (by decide) hk, fun _ _ hx hk => reset_read hx hk, rfl,
    fun _ _ hx hk => reset_read hx (by omega), fun _ hk => reset_read (by decide) (by omega), rfl, rfl,
    fun _ _ hx hk => reset_read hx hk, rfl, rfl, rfl, rfl, rfl, rfl, rfl, rfl, rfl, rfl⟩

end Sys2Proof.Machine
end

section
/-! SUPPORT. What a host write can change: the bits each location takes, and the addresses that take none; and the
reserved bits of a read. -/

namespace Sys2Proof.Machine

/-! ### The bits a location takes (20_memory.md R53) -/

/-- The bits of a written word that the location takes; the others are reserved, and a read-only or reserved location
takes none (20_memory.md R52, R53). -/
def Loc.writeMask : Loc → Word32
  | .status => 0x30
  | .cmd => 0xFFFFFFFF
  | .cfgField | .cfgCwlen | .cfgAuglen | .cfgDivlen | .cfgNaug | .wlen _ => 0xFFFF
  | .cfgMode => 1
  | .cfgMethod => 0xFFFFFF
  | .cell arr _ => if arr.hostWritable then 0xFF else 0
  | .id | .errinfo | .sel | .selPending | .metric | .rds | .wordcount | .params | .reserved => 0

/-- Masking the bits above the low field leaves it. -/
theorem setWidth_and_mask (v : Word32) {mask : Word32} {n : Nat} (h : mask.setWidth n = BitVec.allOnes n) :
    (v &&& mask).setWidth n = v.setWidth n := by
  rw [BitVec.setWidth_and, h, BitVec.and_allOnes]

/-- The bits outside the mask do not matter in a write. -/
theorem writeLoc_and_writeMask (s : State) (v : Word32) (l : Loc) :
    s.writeLoc (v &&& l.writeMask) l = s.writeLoc v l := by
  cases l with
  | status => simp [State.writeLoc, Loc.writeMask, State.clearSticky]
  | cmd => exact congrArg s.startCommand BitVec.and_allOnes
  | cfgField | cfgCwlen | cfgAuglen | cfgDivlen | cfgNaug =>
    simp only [State.writeLoc, Loc.writeMask, setWidth_and_mask v (mask := 0xFFFF) (n := 16) rfl]
  | cfgMode => simp [State.writeLoc, Loc.writeMask]
  | cfgMethod =>
    have metricSel : (v &&& 0xFFFFFF).extractLsb' 16 8 = v.extractLsb' 16 8 := by
      rw [BitVec.extractLsb'_and]
      exact BitVec.and_allOnes
    simp only [State.writeLoc, Loc.writeMask, metricSel, setWidth_and_mask v (mask := 0xFFFFFF) (n := 16) rfl]
  | wlen i =>
    simp only [State.writeLoc, Loc.writeMask, State.writeLen, setWidth_and_mask v (mask := 0xFFFF) (n := 16) rfl]
  | cell arr k =>
    cases h : arr.hostWritable
    · simp [State.writeLoc, h]
    · simp only [State.writeLoc, Loc.writeMask, h, if_true, setWidth_and_mask v (mask := 0xFF) (n := 8) rfl]
  | id | errinfo | sel | selPending | metric | rds | wordcount | params | reserved => rfl

/-- A location that takes no bit ignores writes. -/
theorem writeLoc_of_writeMask_eq_zero (s : State) (v : Word32) {l : Loc} (h : l.writeMask = 0) :
    s.writeLoc v l = s := by
  cases l with
  | id | errinfo | sel | selPending | metric | rds | wordcount | params | reserved => rfl
  | cell arr k =>
    cases hw : arr.hostWritable
    · simp [State.writeLoc, hw]
    · simp [Loc.writeMask, hw] at h
  | status | cmd | cfgField | cfgCwlen | cfgAuglen | cfgDivlen | cfgNaug | cfgMode | cfgMethod | wlen =>
    simp [Loc.writeMask] at h

theorem memWrite_and_writeMask (s : State) (a : Addr) (v : Word32) :
    s.memWrite a (v &&& (locOf a.toNat).writeMask) = s.memWrite a v := by
  simp only [State.memWrite, writeLoc_and_writeMask]

theorem memWrite_of_writeMask_eq_zero (s : State) {a : Addr} (v : Word32) (h : (locOf a.toNat).writeMask = 0) :
    s.memWrite a v = { s with epoch := s.epoch + 1 } := by
  simp only [State.memWrite, writeLoc_of_writeMask_eq_zero s v h]

/-! ### `ERRCODE` -/

@[simp] theorem writeLen_errcode (s : State) (i : Nat) (v : Word32) : (s.writeLen i v).errcode = s.errcode := by
  rcases Nat.lt_or_ge 64 (v.extractLsb' 0 16).toNat with hv | hv
  · rw [writeLen_illegal s i hv]
  · rw [writeLen_legal s i hv]

@[simp] theorem writeLoc_errcode (s : State) (v : Word32) (l : Loc) : (s.writeLoc v l).errcode = s.errcode := by
  cases l with
  | wlen i => exact writeLen_errcode s i v
  | cell arr k => exact (apply_ite State.errcode _ _ _).trans (ite_self _)
  | _ => rfl

@[simp] theorem memWrite_errcode (s : State) (a : Addr) (v : Word32) : (s.memWrite a v).errcode = s.errcode :=
  writeLoc_errcode s v (locOf a.toNat)

/-! ### The read-only and the reserved addresses (20_memory.md R52) -/

theorem regLoc_reserved : ∀ a < 0x0080, (0x0028 ≤ a ∧ a ≤ 0x003C) ∨ 0x005C ≤ a → regLoc a = .reserved := by
  decide

theorem regLoc_writeMask_eq_zero :
    ∀ a < 0x0080, a = 0 ∨ (0x000C ≤ a ∧ a ≤ 0x003C) ∨ 0x005C ≤ a → (regLoc a).writeMask = 0 := by
  decide

/-- The reserved ranges of the address map. -/
theorem locOf_reserved {a : Nat}
    (h : (0x0028 ≤ a ∧ a ≤ 0x003C) ∨ (0x005C ≤ a ∧ a ≤ 0x007C) ∨ (0x00C0 ≤ a ∧ a ≤ 0x00FC) ∨
      (0x0300 ≤ a ∧ a ≤ 0x0FFC) ∨ 0x5000 ≤ a) :
    locOf a = .reserved := by
  unfold locOf
  split_ifs
  case pos hlt => exact regLoc_reserved a hlt (by omega)
  any_goals rfl
  all_goals omega

/-- The ranges of the address map that the host cannot write. -/
theorem locOf_writeMask_eq_zero {a : Nat}
    (h : a = 0 ∨ (0x000C ≤ a ∧ a ≤ 0x003C) ∨ (0x005C ≤ a ∧ a ≤ 0x007C) ∨ (0x00C0 ≤ a ∧ a ≤ 0x00FC) ∨
      (0x0200 ≤ a ∧ a ≤ 0x0FFC) ∨ 0x3000 ≤ a) :
    (locOf a).writeMask = 0 := by
  unfold locOf
  split_ifs
  case pos hlt => exact regLoc_writeMask_eq_zero a hlt (by omega)
  any_goals rfl
  all_goals omega

/-! ### The reserved bits of the registers (10_state.md R27, R28, R36, R37) -/

/-- The bits above a zero-extended field read 0. -/
theorem extractLsb'_setWidth_above {w : Nat} (x : BitVec w) (k n : Nat) : (x.setWidth k).extractLsb' w n = 0 := by
  ext i hi
  simp

/-- `STATUS` as the concatenation of its fields at the sum of their widths, for the library's lemmas on `++`. -/
theorem status_eq_cast (s : State) :
    s.status = (0#16 ++ s.errcode ++ 0#1 ++ BitVec.ofBool s.contBit ++ BitVec.ofBool s.err ++ BitVec.ofBool s.rdsOvf
      ++ BitVec.ofBool s.selValid ++ BitVec.ofBool s.candValid ++ BitVec.ofBool s.cfgValid
      ++ BitVec.ofBool s.busy).cast rfl := rfl

theorem status_reserved (s : State) : s.status.getLsbD 7 = false ∧ s.status.extractLsb' 16 16 = 0 := by
  rw [status_eq_cast, BitVec.getLsbD_cast, BitVec.extractLsb'_cast]
  constructor
  · simp only [BitVec.getLsbD_append]
    simp
  · simp only [BitVec.extractLsb'_append_eq_of_le, Nat.reduceLeDiff, Nat.reduceSub]
    simp

end Sys2Proof.Machine
end

section
/-! PROOFS. The obligations of 20_memory.md. -/

namespace Sys2Proof.Machine

/-- Settles O52: a read-only or reserved address takes no bit of a write and a register takes the bits of its mask; the
reserved bits read 0 since STATUS holds zeros there and every other register is a zero-extended field. -/
theorem reservedAddressesAndBitsIgnoreWrites : Obligations.ReservedAddressesAndBitsIgnoreWrites := by
  refine ⟨fun s a v _ => ⟨fun ha => ?ignored, fun ha => ?zero⟩, fun s => ?readBits, fun s v => ?writeBits,
    memWrite_errcode⟩
  case ignored => exact memWrite_of_writeMask_eq_zero s v (locOf_writeMask_eq_zero ha)
  case zero => rw [State.memRead, locOf_reserved ha]; rfl
  case readBits =>
    obtain ⟨hbit7, hhigh⟩ := status_reserved s
    refine ⟨hbit7, hhigh, extractLsb'_setWidth_above s.sel 32 28, extractLsb'_setWidth_above s.selPending 32 28,
      ?fields, extractLsb'_setWidth_above (BitVec.ofBool s.cfgContinuous) 32 31,
      extractLsb'_setWidth_above (s.cfgMetricSel ++ s.cfgAlphabet) 32 8⟩
    simp only [List.forall_mem_cons, List.not_mem_nil, false_imp_iff, implies_true, and_true]
    exact ⟨extractLsb'_setWidth_above s.cfgField 32 16, extractLsb'_setWidth_above s.cfgCwlen 32 16,
      extractLsb'_setWidth_above s.cfgAuglen 32 16, extractLsb'_setWidth_above s.cfgDivlen 32 16,
      extractLsb'_setWidth_above s.cfgNaug 32 16⟩
  case writeBits =>
    have masked (a : Addr) := (memWrite_and_writeMask s a v).symm
    simp only [List.forall_mem_cons, List.not_mem_nil, false_imp_iff, implies_true, and_true]
    exact ⟨⟨masked 0x0040, masked 0x0044, masked 0x0048, masked 0x004C, masked 0x0050⟩, masked 0x0054, masked 0x0058,
      masked 0x0004⟩

end Sys2Proof.Machine
end

section
/-! SUPPORT. What the decoder accepts, as masks on the word, and the engine's turn. -/

namespace Sys2Proof

/-! ### Fields and must-be-zero bits (30_encoding.md R70, R73) -/

theorem testBit_field (v : Word32) (hi lo k : Nat) :
    (field v hi lo).testBit k = (decide (k < hi + 1 - lo) && v.getLsbD (lo + k)) := by
  rw [field, Nat.testBit_mod_two_pow, Nat.testBit_div_two_pow, Nat.add_comm k lo, BitVec.testBit_toNat]

theorem getLsbD_eq_false_of_field_eq_zero {v : Word32} {hi lo i : Nat} (h : field v hi lo = 0) (hlo : lo ≤ i)
    (hhi : i ≤ hi) : v.getLsbD i = false := by
  have hbit := testBit_field v hi lo (i - lo)
  rw [h, Nat.zero_testBit, Nat.add_sub_cancel' hlo, decide_eq_true (by omega), Bool.true_and] at hbit
  exact hbit.symm

/-- The bits of a word that are not its operand fields: the opcode and the format's must-be-zero bits, as the mask
column of spec/opcode_table.json gives them. -/
def Format.mask : Format → Word32
  | .N => 0xFFFFFFFF
  | .R => 0xFFF000FF
  | .Q => 0xFF0000FF
  | .S => 0x00FF00FF
  | .U => 0xFFFF00FF
  | .G => 0xFFFF0FFF
  | .D => 0xFFFFF0FF

theorem Format.getLsbD_mask (f : Format) : ∀ i < 32,
    f.mask.getLsbD i = (decide (i < 8) || f.mbz.any fun r => decide (r.2 ≤ i) && decide (i ≤ r.1)) := by
  cases f <;> decide

/-- A word that respects the format's must-be-zero bits keeps only its opcode under the mask. -/
theorem Format.and_mask_of_mbzClear {f : Format} {v : Word32} (h : f.mbzClear v = true) :
    v &&& f.mask = BitVec.ofNat 32 (field v 7 0) := by
  simp only [Format.mbzClear, List.all_eq_true, beq_iff_eq] at h
  refine BitVec.eq_of_getLsbD_eq fun i hi => ?_
  rw [BitVec.getLsbD_and, f.getLsbD_mask i hi, BitVec.getLsbD_ofNat, testBit_field, Nat.zero_add]
  by_cases hopc : i < 8
  · simp [hopc, hi]
  · cases hmbz : f.mbz.any fun r => decide (r.2 ≤ i) && decide (i ≤ r.1)
    · simp [hopc]
    · obtain ⟨r, hr, hin⟩ := List.any_eq_true.1 hmbz
      obtain ⟨hlo, hhi⟩ := by simpa using hin
      simp [hopc, getLsbD_eq_false_of_field_eq_zero (h r hr) hlo hhi]

/-! ### The rows of the opcode table (30_encoding.md R74) -/

theorem mbzClear_of_accept_ok {f : Format} {v : Word32} {i j : Instr} (h : accept f v i = .ok j) :
    f.mbzClear v = true := by
  unfold accept at h
  split at h
  case isTrue hclear => exact hclear
  case isFalse => cases h

/-- A word accepted in a format matches the row of its opcode and the format's mask. -/
theorem exists_row_of_accept_ok {f : Format} {v : Word32} {i j : Instr} {opc : Nat} (h : accept f v i = .ok j)
    (hopc : field v 7 0 = opc) (hrow : (BitVec.ofNat 32 opc, f.mask) ∈ Machine.opcodeTable) :
    ∃ row ∈ Machine.opcodeTable, v &&& row.2 = row.1 :=
  ⟨_, hrow, hopc ▸ Format.and_mask_of_mbzClear (mbzClear_of_accept_ok h)⟩

/-- The decoder accepts a word only in one of its 13 arms, and each arm is a row of the opcode table. -/
theorem exists_row_of_decode_ok {v : Word32} {i : Instr} (h : decode v = .ok i) :
    ∃ row ∈ Machine.opcodeTable, v &&& row.2 = row.1 := by
  unfold decode at h
  split at h
  case h_14 => cases h
  all_goals
    rename_i hopc
    exact exists_row_of_accept_ok h hopc (by decide)

/-- A word that no row matches does not decode. -/
theorem decode_error_of_no_row {v : Word32} (h : ∀ row ∈ Machine.opcodeTable, v &&& row.2 ≠ row.1) :
    ∃ e, decode v = .error e := by
  cases hd : decode v with
  | error e => exact ⟨e, rfl⟩
  | ok i =>
    obtain ⟨row, hrow, hmatch⟩ := exists_row_of_decode_ok hd
    exact absurd hmatch (h row hrow)

/-! ### The opcode values in no row (30_encoding.md R75) -/

/-- Distinct numbers below `n` leave `n` less their count. -/
theorem length_filter_range_notMem {n : Nat} {l : List Nat} (hnodup : l.Nodup) (hlt : ∀ o ∈ l, o < n) :
    ((List.range n).filter fun o => decide (o ∉ l)).length = n - l.length := by
  have hsub : l.toFinset ⊆ Finset.range n := fun o ho => Finset.mem_range.2 (hlt o (List.mem_toFinset.1 ho))
  have hset : ((List.range n).filter fun o => decide (o ∉ l)).toFinset = Finset.range n \ l.toFinset := by
    ext o
    simp
  rw [← List.toFinset_card_of_nodup (List.nodup_range.filter _), hset, Finset.card_sdiff_of_subset hsub,
    Finset.card_range, List.toFinset_card_of_nodup hnodup]

/-- A value is in no row when it is not among the rows' opcodes. -/
theorem opcodeTable_all_ne (o : Nat) :
    (Machine.opcodeTable.all fun row => row.1.toNat != o) =
      decide (o ∉ Machine.opcodeTable.map fun row => row.1.toNat) := by
  rw [Bool.eq_iff_iff]
  simp

end Sys2Proof

namespace Sys2Proof.Machine

/-! ### The engine's turn (30_encoding.md R71) -/

theorem turn_of_engineTurn {s : State} (h : EngineTurn s) : s.turn = .engine := by
  obtain ⟨hbusy, hturn⟩ := h
  unfold State.turn
  rcases hturn with hturn | hhost
  · cases hhost : s.host <;> simp [hbusy, hturn]
  · simp [hbusy, hhost]

theorem step_of_engineTurn {s : State} (h : EngineTurn s) : step s = engineStep s := by
  rw [step, turn_of_engineTurn h]

/-- A latched word that does not decode takes the error protocol with `IllegalCommand`. -/
theorem engineStep_of_decode_error {s : State} {e : DecodeError} (h : decode s.cmdLatch = .error e) :
    engineStep s = .next (s.failedWith 0x0B) := by
  rw [engineStep, State.fetched, h]
  exact congrArg Host.Outcome.next (raiseErr_eq_failedWith s .illegalCommand)

end Sys2Proof.Machine
end

section
/-! PROOFS. The obligations of 30_encoding.md. -/

namespace Sys2Proof.Machine

/-- Settles O8: an accepted word would match the row of its decoder arm, so the word does not decode and the engine's
step is the error protocol; the 13 rows have distinct opcodes below 256, which leaves 243. -/
theorem illegalWordsRaiseIllegalCommand : Obligations.IllegalWordsRaiseIllegalCommand := by
  refine ⟨fun s hturn hrows => ?illegal, ?count⟩
  case illegal =>
    obtain ⟨e, he⟩ := decode_error_of_no_row hrows
    rw [step_of_engineTurn hturn, engineStep_of_decode_error he]
  case count =>
    simp only [opcodeTable_all_ne]
    exact length_filter_range_notMem (by decide) (by decide)

end Sys2Proof.Machine
end

section
/-! SUPPORT. The cells of the carries and the remainder: what their reset does, and what they hold in block mode. -/

namespace Sys2Proof.Machine

/-! ### The running-state reset on the cells (44_control.md R158) -/

/-- Every aligned address of the carry windows is that of a cell of a carry or of the remainder. -/
theorem exists_carryCell_of_isCarryAddr {a : Nat} (h : isCarryAddr a = true) (ha : a % 4 = 0) :
    ∃ x k, x < 16 ∧ k < 64 ∧ (a = (CellArray.slotCarry x).addr k ∨ a = CellArray.descRem.addr k) := by
  simp only [CellArray.addr, CellArray.base]
  obtain hrem | hslot := isCarryAddr_iff.1 h
  · exact ⟨0, (a - 0x0200) / 4, by omega, by omega, .inr (by omega)⟩
  · exact ⟨(a - 0x3000) / 0x100, a % 0x100 / 4, by omega, by omega, .inl (by omega)⟩

theorem Memory.read_clearCarries_carryCell (m : Memory) {arr : CellArray} {k : Nat} (harr : arr.isCarry = true)
    (hx : arr.index < 16) (hk : k < 64) : m.clearCarries.read (arr.addr k) = some 0 := by
  rw [Memory.read_clearCarries, isCarryAddr_addr hx hk, if_pos harr]

/-- Clearing the carries changes no aligned cell outside the carries and the remainder. -/
theorem Memory.read_clearCarries_other (m : Memory) {a : Nat}
    (hother : ∀ x k, x < 16 → k < 64 → a ≠ (CellArray.slotCarry x).addr k ∧ a ≠ CellArray.descRem.addr k)
    (ha : a % 4 = 0) : m.clearCarries.read a = m.read a := by
  rw [Memory.read_clearCarries, if_neg]
  intro hcarry
  obtain ⟨x, k, hx, hk, hcell⟩ := exists_carryCell_of_isCarryAddr hcarry ha
  obtain ⟨hslot, hrem⟩ := hother x k hx hk
  exact hcell.elim hslot hrem

/-! ### The carries and the remainder in block mode (10_state.md R32, R33) -/

/-- A cell of the carry windows is never unwritten. -/
theorem Memory.read_eq_some_of_isCarryAddr (m : Memory) {a : Nat} (h : isCarryAddr a = true) :
    m.read a = some ((m.read a).getD 0) := by
  unfold Memory.read
  cases m.lookup a <;> simp [Memory.unlisted, h]

/-- In block mode the invariant leaves a cell of a carry or of the remainder no value but 0. -/
theorem read_carryCell_of_block {s : State} {arr : CellArray} {k : Nat} (hcont : s.active.cont = false)
    (harr : arr.isCarry = true) (hx : arr.index < 16) (hk : k < 64)
    (hok : CarryCellOk s ((s.mem.read (arr.addr k)).getD 0) k) : s.mem.read (arr.addr k) = some 0 := by
  rw [Memory.read_eq_some_of_isCarryAddr _ ((isCarryAddr_addr hx hk).trans harr)]
  obtain hzero | ⟨-, hcont', -⟩ := hok
  · rw [hzero]
  · simp [hcont] at hcont'

end Sys2Proof.Machine
end

section
/-! PROOFS. The obligations of 44_control.md. -/

namespace Sys2Proof.Machine

/-- Settles O19: the next state is the running-state reset ended with success; the reset clears the carry windows,
whose aligned addresses are those of the carries and the remainder, and in block mode the invariant leaves these cells
only 0. -/
theorem resetStateClearsRunningState : Obligations.ResetStateClearsRunningState := by
  refine ⟨by decide, by decide, ?block, fun s => ⟨s.resetRunning.succeed, ?next, ?slotCarry, ?descRem, ?frame, rfl⟩⟩
  case block =>
    intro s hinv hcont
    exact ⟨fun x k hx hk => read_carryCell_of_block hcont rfl hx hk (hinv.carries x hx k hk),
      fun k hk => read_carryCell_of_block hcont rfl (by decide) hk (hinv.remainder k hk)⟩
  case next => exact (exec_eq_complete .resetState s).trans (complete_done s s.resetRunning)
  case slotCarry => exact fun x k hx hk => s.mem.read_clearCarries_carryCell rfl hx hk
  case descRem => exact fun k hk => s.mem.read_clearCarries_carryCell rfl (by decide) hk
  case frame => exact fun a hother ha => s.mem.read_clearCarries_other hother ha

/-- Settles O18: NOP's rule answers the state it began in, so only the successful end of a command is seen. -/
theorem nopOnlyClearsErrcode : Obligations.NopOnlyClearsErrcode :=
  ⟨fun s => (exec_eq_complete .nop s).trans (complete_done s s), by decide, by decide, by decide⟩

end Sys2Proof.Machine
end

section
/-! SUPPORT. The command word as the sum of its fields, and what the decoder accepts. -/

namespace Sys2Proof

theorem isReg_iff {r : Nat} : isReg r = true ↔ r < 16 := decide_eq_true_iff

theorem isImm8_iff {v : Nat} : isImm8 v = true ↔ v < 256 := decide_eq_true_iff

/-! ### Fields of a packed word (30_encoding.md R70, R76) -/

section
variable {opc rd rs1 rs2 rd2 slot : Nat} (hopc : opc < 256)
include hopc

theorem field_pack_rd (hrd : rd < 16) : field (pack opc rd rs1 rs2 rd2 slot) 11 8 = rd := by
  simp only [field, pack, BitVec.toNat_ofNat]
  omega

theorem field_pack_rs1 (hrd : rd < 16) (hrs1 : rs1 < 16) : field (pack opc rd rs1 rs2 rd2 slot) 15 12 = rs1 := by
  simp only [field, pack, BitVec.toNat_ofNat]
  omega

theorem field_pack_rs2 (hrd : rd < 16) (hrs1 : rs1 < 16) (hrs2 : rs2 < 16) :
    field (pack opc rd rs1 rs2 rd2 slot) 19 16 = rs2 := by
  simp only [field, pack, BitVec.toNat_ofNat]
  omega

theorem field_pack_rd2 (hrd : rd < 16) (hrs1 : rs1 < 16) (hrs2 : rs2 < 16) (hrd2 : rd2 < 16) :
    field (pack opc rd rs1 rs2 rd2 slot) 23 20 = rd2 := by
  simp only [field, pack, BitVec.toNat_ofNat]
  omega

theorem field_pack_slot (hrd : rd < 16) (hrs1 : rs1 < 16) (hrs2 : rs2 < 16) (hrd2 : rd2 < 16) (hslot : slot < 256) :
    field (pack opc rd rs1 rs2 rd2 slot) 31 24 = slot := by
  simp only [field, pack, BitVec.toNat_ofNat]
  omega

end

/-- The operands a format has are the only ones that may be nonzero (30_encoding.md R73). -/
def Format.admits (f : Format) (rd rs1 rs2 rd2 slot : Nat) : Prop :=
  match f with
  | .N => rd = 0 ∧ rs1 = 0 ∧ rs2 = 0 ∧ rd2 = 0 ∧ slot = 0
  | .R => rd2 = 0 ∧ slot = 0
  | .Q => slot = 0
  | .S => rs2 = 0 ∧ rd2 = 0
  | .U => rs2 = 0 ∧ rd2 = 0 ∧ slot = 0
  | .G => rd = 0 ∧ rs2 = 0 ∧ rd2 = 0 ∧ slot = 0
  | .D => rs1 = 0 ∧ rs2 = 0 ∧ rd2 = 0 ∧ slot = 0

/-- The must-be-zero bits of a format are the fields of the operands it does not have. -/
theorem mbzClear_iff_admits (f : Format) (v : Word32) : f.mbzClear v = true ↔
    f.admits (field v 11 8) (field v 15 12) (field v 19 16) (field v 23 20) (field v 31 24) := by
  have hv := v.isLt
  cases f <;> simp only [Format.mbzClear, Format.mbz, Format.admits, List.all_cons, List.all_nil, Bool.and_true,
    Bool.and_eq_true, beq_iff_eq, field] <;> omega

/-- A word is the packing of its fields. -/
theorem pack_fields (v : Word32) :
    pack (field v 7 0) (field v 11 8) (field v 15 12) (field v 19 16) (field v 23 20) (field v 31 24) = v := by
  apply BitVec.eq_of_toNat_eq
  have hv := v.isLt
  simp only [pack, field, BitVec.toNat_ofNat]
  omega

/-! ### The formats as masks (30_encoding.md R73) -/

theorem accept_ok_iff {f : Format} {v : Word32} {i j : Instr} :
    accept f v i = .ok j ↔ f.mbzClear v = true ∧ i = j := by
  unfold accept
  split <;> simp_all

/-- A word whose bits under the format's mask are an opcode has that opcode and respects the must-be-zero bits. -/
theorem fields_of_and_mask {f : Format} {v : Word32} {opc : Nat} (hopc : opc < 256)
    (h : v &&& f.mask = BitVec.ofNat 32 opc) : field v 7 0 = opc ∧ f.mbzClear v = true := by
  have hbit (i : Nat) (hi : i < 32) : (v.getLsbD i && f.mask.getLsbD i) = opc.testBit i := by
    rw [← BitVec.getLsbD_and, h, BitVec.getLsbD_ofNat, decide_eq_true hi, Bool.true_and]
  constructor
  case left =>
    refine Nat.eq_of_testBit_eq fun i => ?_
    rw [testBit_field, Nat.zero_add]
    by_cases hi : i < 8
    · have hmask : f.mask.getLsbD i = true := by rw [f.getLsbD_mask i (by omega)]; simp [hi]
      rw [← hbit i (by omega), hmask]
      simp [hi]
    · rw [Nat.testBit_lt_two_pow (hopc.trans_le (Nat.pow_le_pow_right (n := 2) (by omega) (Nat.not_lt.1 hi)))]
      simp [hi]
  case right =>
    simp only [Format.mbzClear, List.all_eq_true, beq_iff_eq]
    intro r hr
    refine Nat.eq_of_testBit_eq fun k => ?_
    obtain ⟨hhi, hlo⟩ : r.1 < 32 ∧ 8 ≤ r.2 := by revert r; cases f <;> decide
    rw [testBit_field, Nat.zero_testBit]
    by_cases hk : r.2 + k ≤ r.1
    · have hmask : f.mask.getLsbD (r.2 + k) = true := by
        rw [f.getLsbD_mask _ (by omega), Bool.or_eq_true, List.any_eq_true]
        exact .inr ⟨r, hr, by simp [hk]⟩
      have hzero := hbit (r.2 + k) (by omega)
      rw [hmask, Bool.and_true, Nat.testBit_lt_two_pow
        (hopc.trans_le (Nat.pow_le_pow_right (n := 2) (i := 8) (by omega) (by omega)))] at hzero
      rw [hzero, Bool.and_false]
    · rw [decide_eq_false (by omega), Bool.false_and]

/-- The bytes of a word on the byte lanes, put together again. -/
theorem append_wordBytes (v : Word32) :
    v.extractLsb' 24 8 ++ v.extractLsb' 16 8 ++ v.extractLsb' 8 8 ++ v.extractLsb' 0 8 = v := by
  apply BitVec.eq_of_toNat_eq
  have hv := v.isLt
  simp only [BitVec.toNat_append, BitVec.extractLsb'_toNat, Nat.shiftRight_eq_div_pow]
  rw [← Nat.shiftLeft_add_eq_or_of_lt, ← Nat.shiftLeft_add_eq_or_of_lt, ← Nat.shiftLeft_add_eq_or_of_lt]
  all_goals omega

theorem decodeBytes_wordBytes_append (v : Word32) (rest : List Byte) :
    decodeBytes (wordBytes v ++ rest) = (decode v).map fun i => (i, rest) := by
  simp only [wordBytes, List.cons_append, List.nil_append, decodeBytes]
  rw [append_wordBytes]
  cases decode v <;> rfl

/-! ### The arm of a command in the decoder (30_encoding.md R74) -/

/-- The opcode of a command (30_encoding.md R74). -/
def Instr.opcode : Instr → Nat
  | .nop => 0x00
  | .configure => 0x01
  | .resetState => 0x02
  | .wadd .. => 0x10
  | .wmul .. => 0x11
  | .pmul .. => 0x12
  | .pdivmod .. => 0x13
  | .scramble .. => 0x20
  | .candidates .. => 0x21
  | .select => 0x22
  | .commit .. => 0x23
  | .encode .. => 0x24
  | .decode .. => 0x30

/-- The format of a command (30_encoding.md R74). -/
def Instr.format : Instr → Format
  | .nop | .configure | .resetState | .select => .N
  | .wadd .. | .wmul .. | .pmul .. => .R
  | .pdivmod .. => .Q
  | .scramble .. => .S
  | .candidates .. => .G
  | .commit .. => .D
  | .encode .. | .decode .. => .U

/-- The same command with its operands taken from the fields of a word. -/
def Instr.fromFields (v : Word32) : Instr → Instr
  | .nop => .nop
  | .configure => .configure
  | .resetState => .resetState
  | .wadd .. => .wadd (field v 11 8) (field v 15 12) (field v 19 16)
  | .wmul .. => .wmul (field v 11 8) (field v 15 12) (field v 19 16)
  | .pmul .. => .pmul (field v 11 8) (field v 15 12) (field v 19 16)
  | .pdivmod .. => .pdivmod (field v 11 8) (field v 23 20) (field v 15 12) (field v 19 16)
  | .scramble .. => .scramble (field v 11 8) (field v 15 12) (field v 31 24)
  | .candidates _ => .candidates (field v 15 12)
  | .select => .select
  | .commit _ => .commit (field v 11 8)
  | .encode .. => .encode (field v 11 8) (field v 15 12)
  | .decode .. => .decode (field v 11 8) (field v 15 12)

/-- The decoder's arm for the opcode of a command. -/
theorem decode_of_opcode {v : Word32} (i : Instr) (h : field v 7 0 = i.opcode) :
    decode v = accept i.format v (i.fromFields v) := by
  cases i <;> rw [decode, h] <;> rfl

theorem opcode_lt (i : Instr) : i.opcode < 256 := by cases i <;> simp [Instr.opcode]

theorem field_encode_opcode (i : Instr) : field (encode i) 7 0 = i.opcode := by
  cases i <;> exact Laws.field_pack_opc (by decide)

/-- The operands of a well-formed command stand in their fields. -/
theorem fromFields_encode {i : Instr} (h : i.wellFormed = true) : i.fromFields (encode i) = i := by
  cases i
  all_goals
    simp only [Instr.wellFormed, Bool.and_eq_true, isReg_iff, isImm8_iff] at h
    simp (disch := omega) only [encode, Instr.fromFields, field_pack_rd, field_pack_rs1, field_pack_rs2,
      field_pack_rd2, field_pack_slot]

/-- The encoding of a well-formed command respects the must-be-zero bits of its format. -/
theorem mbzClear_encode {i : Instr} (h : i.wellFormed = true) : i.format.mbzClear (encode i) = true := by
  rw [mbzClear_iff_admits]
  cases i
  all_goals
    simp only [Instr.wellFormed, Bool.and_eq_true, isReg_iff, isImm8_iff] at h
    simp (disch := omega) only [encode, Instr.format, Format.admits, field_pack_rd, field_pack_rs1, field_pack_rs2,
      field_pack_rd2, field_pack_slot, and_self]

/-- The operands taken from a word's fields fit them. -/
theorem wellFormed_fromFields (v : Word32) (i : Instr) : (i.fromFields v).wellFormed = true := by
  have hlt (hi lo : Nat) : field v hi lo < 2 ^ (hi + 1 - lo) := Nat.mod_lt _ (by positivity)
  have hrd := hlt 11 8
  have hrs1 := hlt 15 12
  have hrs2 := hlt 19 16
  have hrd2 := hlt 23 20
  have hslot := hlt 31 24
  cases i <;> simp only [Instr.fromFields, Instr.wellFormed, Bool.and_eq_true, isReg_iff, isImm8_iff] <;> omega

/-- A word that has the opcode of a command and respects its must-be-zero bits is the encoding of that command, with
the operands of its fields. -/
theorem encode_fromFields {v : Word32} {i : Instr} (hopc : field v 7 0 = i.opcode)
    (hmbz : i.format.mbzClear v = true) : encode (i.fromFields v) = v := by
  have hpack := pack_fields v
  rw [mbzClear_iff_admits] at hmbz
  cases i <;> simp only [Instr.format, Format.admits] at hmbz <;> simp only [hopc, hmbz, Instr.opcode] at hpack <;>
    exact hpack

/-- A command of every constructor. -/
def Instr.representatives : List Instr :=
  [.nop, .configure, .resetState, .wadd 0 0 0, .wmul 0 0 0, .pmul 0 0 0, .pdivmod 0 0 0 0, .scramble 0 0 0,
    .candidates 0, .select, .commit 0, .encode 0 0, .decode 0 0]

theorem opcodeTable_eq : Machine.opcodeTable =
    Instr.representatives.map fun i => (BitVec.ofNat 32 i.opcode, i.format.mask) := by decide

/-- A word that decodes has the opcode of the decoded command and respects its must-be-zero bits. -/
theorem decode_ok {v : Word32} {i : Instr} (h : decode v = .ok i) :
    ∃ j : Instr, field v 7 0 = j.opcode ∧ j.format.mbzClear v = true ∧ j.fromFields v = i := by
  obtain ⟨row, hrow, hmatch⟩ := exists_row_of_decode_ok h
  rw [opcodeTable_eq, List.mem_map] at hrow
  obtain ⟨j, -, rfl⟩ := hrow
  obtain ⟨hopc, hmbz⟩ := fields_of_and_mask (opcode_lt j) hmatch
  rw [decode_of_opcode j hopc] at h
  exact ⟨j, hopc, accept_ok_iff.1 h⟩

end Sys2Proof
end

section
/-! PROOFS. The obligations of 30_encoding.md and 20_memory.md section 2 on command words. -/

namespace Sys2Proof.Machine

/-- Settles O1: the encoding has the command's opcode and respects its must-be-zero bits, so the command's own arm
accepts it, and its operands stand in their fields. -/
theorem decodeInvertsEncode : Obligations.DecodeInvertsEncode := by
  intro i hwf
  rw [decode_of_opcode i (field_encode_opcode i), accept_ok_iff]
  exact ⟨mbzClear_encode hwf, fromFields_encode hwf⟩

/-- Settles O2: a decoded command has its operands from the fields of the word, and the word is the packing of its
fields. -/
theorem decodedWordsReencode : Obligations.DecodedWordsReencode := by
  intro v i h
  obtain ⟨j, hopc, hmbz, rfl⟩ := decode_ok h
  exact ⟨wellFormed_fromFields v j, encode_fromFields hopc hmbz⟩

/-- Settles O3: every arm of the decoder is a row; and a word that matches a row has the row's opcode and respects the
must-be-zero bits of its format, so the arm of that row accepts it. -/
theorem decodeAcceptsExactlyTheTableWords : Obligations.DecodeAcceptsExactlyTheTableWords := by
  intro v
  refine ⟨fun ⟨i, hi⟩ => exists_row_of_decode_ok hi, ?_⟩
  rintro ⟨row, hrow, hmatch⟩
  rw [opcodeTable_eq, List.mem_map] at hrow
  obtain ⟨i, -, rfl⟩ := hrow
  obtain ⟨hopc, hmbz⟩ := fields_of_and_mask (opcode_lt i) hmatch
  exact ⟨i.fromFields v, by rw [decode_of_opcode i hopc, accept_ok_iff]; exact ⟨hmbz, rfl⟩⟩

/-- Settles O4, word by word. -/
theorem workedEncodingsAgree : Obligations.WorkedEncodingsAgree := ⟨by decide, by decide⟩

/-- Settles O5: the four bytes put together are the word. -/
theorem bytesDecodeAsTheirWord : Obligations.BytesDecodeAsTheirWord := by
  intro v rest i
  rw [decodeBytes_wordBytes_append]
  cases Sys2Proof.decode v <;> simp [Except.map]

end Sys2Proof.Machine
end

section
/-! SUPPORT. The arithmetic of symbols: inverses, primes and prime powers (00_scope.md R11, R13). -/

namespace Sys2Proof.Machine

/-- A unit modulo `q` has an inverse among the symbols. -/
theorem exists_inverse {q a : Nat} (hq : 2 ≤ q) (h : Nat.gcd a q = 1) : ∃ b, b < q ∧ 1 ≤ b ∧ mulq q a b = 1 := by
  obtain ⟨b, hlt, hb⟩ := Nat.exists_mul_mod_eq_one_of_coprime h (by omega)
  refine ⟨b, hlt, Nat.pos_of_ne_zero fun hzero => ?_, hb⟩
  rw [hzero, Nat.mul_zero, Nat.zero_mod] at hb
  exact absurd hb (by decide)

/-- Multiplication by a unit is injective on symbols. -/
theorem mulq_left_cancel {q a b c : Nat} (h : Nat.gcd a q = 1) (hb : b < q) (hc : c < q)
    (hmul : mulq q a b = mulq q a c) : b = c := by
  have hmod : b ≡ c [MOD q] := Nat.ModEq.cancel_left_of_coprime (by rwa [Nat.gcd_comm]) hmul
  rwa [Nat.ModEq, Nat.mod_eq_of_lt hb, Nat.mod_eq_of_lt hc] at hmod

theorem isPrime_iff {p : Nat} : isPrime p = true ↔ Nat.Prime p := by
  rw [Nat.prime_def_lt']
  simp only [isPrime, Bool.and_eq_true, decide_eq_true_eq, List.all_eq_true, List.mem_range, Bool.or_eq_true,
    bne_iff_ne, Nat.dvd_iff_mod_eq_zero]
  refine and_congr_right fun _ => forall_congr' fun e => ?_
  constructor
  · intro h h2 hlt
    exact (h hlt).resolve_left (by omega)
  · intro h hlt
    exact or_iff_not_imp_left.2 fun h2 => h (by omega) hlt

/-- The test finds every prime power, since base and exponent are at most the power. -/
theorem isPrimePower_iff {q : Nat} : isPrimePower q = true ↔ ∃ p k, Nat.Prime p ∧ 1 ≤ k ∧ q = p ^ k := by
  simp only [isPrimePower, List.any_eq_true, List.mem_range, Bool.and_eq_true, isPrime_iff, decide_eq_true_eq,
    beq_iff_eq]
  constructor
  · rintro ⟨p, -, hp, k, -, hk, rfl⟩
    exact ⟨p, k, hp, hk, rfl⟩
  · rintro ⟨p, k, hp, hk, rfl⟩
    exact ⟨p, Nat.lt_succ_of_le (Nat.le_self_pow (by omega) p), hp, k,
      Nat.lt_succ_of_lt (Nat.lt_pow_self hp.one_lt), hk, rfl⟩

end Sys2Proof.Machine
end

section
/-! SUPPORT. Words as polynomials modulo `q` (00_scope.md R10): the polynomial of a word, its coefficients, and what the
operations on words are there (40_word.md R102, R103, R109). -/

namespace Sys2Proof.Machine

open Polynomial

/-! ### The polynomial of a word -/

@[simp] theorem polyOf_nil (q : Nat) : polyOf q [] = 0 := rfl

theorem polyOf_cons (q x : Nat) (w : Word) :
    polyOf q (x :: w) = C ((x : Nat) : ZMod q) * X ^ w.length + polyOf q w := by
  simp only [polyOf, List.length_cons]
  rw [Finset.sum_range_succ', add_comm]
  congr 1
  refine Finset.sum_congr rfl fun i _ => ?_
  rw [List.getD_cons_succ, show w.length + 1 - 1 - (i + 1) = w.length - 1 - i by omega]

theorem polyOf_append (q : Nat) (u v : Word) : polyOf q (u ++ v) = polyOf q u * X ^ v.length + polyOf q v := by
  induction u with
  | nil => simp
  | cons x u ih => rw [List.cons_append, polyOf_cons, polyOf_cons, ih, List.length_append]; ring

@[simp] theorem polyOf_zeros (q k : Nat) : polyOf q (zeros k) = 0 := by
  induction k with
  | zero => rfl
  | succ k ih =>
    have hcons : zeros (k + 1) = 0 :: zeros k := rfl
    rw [hcons, polyOf_cons, ih]
    simp

/-- The coefficients of a word's polynomial are its symbols, the last one at degree 0. -/
theorem coeff_polyOf (q : Nat) (w : Word) (e : Nat) :
    (polyOf q w).coeff e = if e < w.length then ((w.getD (w.length - 1 - e) 0 : Nat) : ZMod q) else 0 := by
  induction w with
  | nil => simp
  | cons x w ih =>
    rw [polyOf_cons, coeff_add, coeff_C_mul_X_pow, ih, List.length_cons]
    obtain hlt | rfl | hgt := Nat.lt_trichotomy e w.length
    · rw [if_neg (by omega), if_pos hlt, if_pos (by omega), zero_add,
        show w.length + 1 - 1 - e = (w.length - 1 - e) + 1 by omega, List.getD_cons_succ]
    · simp
    · rw [if_neg (by omega), if_neg (by omega), if_neg (by omega), add_zero]

theorem degree_polyOf_lt (q : Nat) (w : Word) : (polyOf q w).degree < w.length := by
  rw [degree_lt_iff_coeff_zero]
  intro e he
  rw [coeff_polyOf, if_neg (by omega)]

/-- Words of the same length in range are told apart by their polynomials. -/
theorem polyOf_injective {q : Nat} {u v : Word} (hlen : u.length = v.length) (hu : ValidWord q u) (hv : ValidWord q v)
    (h : polyOf q u = polyOf q v) : u = v := by
  refine List.ext_getElem hlen fun i hi hi' => ?_
  have hcoeff := congrArg (fun f => f.coeff (u.length - 1 - i)) h
  simp only [coeff_polyOf] at hcoeff
  rw [if_pos (by omega), if_pos (by omega), ← hlen, show u.length - 1 - (u.length - 1 - i) = i by omega,
    List.getD_eq_getElem _ _ hi, List.getD_eq_getElem _ _ hi', ZMod.natCast_eq_natCast_iff'] at hcoeff
  rwa [Nat.mod_eq_of_lt (hu _ (List.getElem_mem hi)), Nat.mod_eq_of_lt (hv _ (List.getElem_mem hi'))] at hcoeff

/-! ### The product (40_word.md R102) -/

theorem list_sum_map_range (f : Nat → Nat) (n : Nat) : ((List.range n).map f).sum = ∑ i ∈ Finset.range n, f i := rfl

theorem pmulf_getD (q : Nat) (a b : Word) {k : Nat} (hk : k < a.length + b.length - 1) :
    (pmulf q a b).getD k 0 = (∑ i ∈ Finset.range (k + 1), a.getD i 0 * b.getD (k - i) 0) % q := by
  simp [pmulf, List.getD_eq_getElem?_getD, List.getElem?_map, List.getElem?_range hk, list_sum_map_range]

theorem getD_of_length_le {w : Word} {i : Nat} (h : w.length ≤ i) : w.getD i 0 = 0 := by
  rw [List.getD_eq_getElem?_getD, List.getElem?_eq_none h]
  rfl

/-- The sum along a diagonal is the sum over the pairs of positions on it. -/
theorem sum_diagonal_eq_sum_pairs (a b : Word) (k : Nat) :
    ∑ i ∈ Finset.range (k + 1), a.getD i 0 * b.getD (k - i) 0 =
      ∑ i ∈ Finset.range a.length, ∑ j ∈ Finset.range b.length, if i + j = k then a.getD i 0 * b.getD j 0 else 0 := by
  have inner (i : Nat) : (∑ j ∈ Finset.range b.length, if i + j = k then a.getD i 0 * b.getD j 0 else 0) =
      if i ≤ k then a.getD i 0 * b.getD (k - i) 0 else 0 := by
    by_cases hi : i ≤ k
    · have hcond (j : Nat) : i + j = k ↔ k - i = j := by omega
      simp only [hcond, Finset.sum_ite_eq, Finset.mem_range, hi, if_true]
      split
      · rfl
      · rw [getD_of_length_le (w := b) (by omega), Nat.mul_zero]
    · rw [if_neg hi]
      exact Finset.sum_eq_zero fun j _ => if_neg (by omega)
  calc ∑ i ∈ Finset.range (k + 1), a.getD i 0 * b.getD (k - i) 0
      = ∑ i ∈ Finset.range (a.length + (k + 1)), if i ≤ k then a.getD i 0 * b.getD (k - i) 0 else 0 := by
        rw [← Finset.sum_filter]
        refine Finset.sum_congr (Finset.ext fun i => ?_) fun _ _ => rfl
        simp only [Finset.mem_range, Finset.mem_filter]
        omega
    _ = ∑ i ∈ Finset.range a.length, if i ≤ k then a.getD i 0 * b.getD (k - i) 0 else 0 := by
        refine (Finset.sum_subset (Finset.range_mono (by omega)) fun i _ hi => ?_).symm
        rw [getD_of_length_le (w := a) (by simpa using hi), Nat.zero_mul, ite_self]
    _ = _ := Finset.sum_congr rfl fun i _ => (inner i).symm

/-- The polynomial of the product word is the product of the polynomials. -/
theorem polyOf_pmulf (q : Nat) (a b : Word) : polyOf q (pmulf q a b) = polyOf q a * polyOf q b := by
  have coeff (k : Nat) (hk : k ∈ Finset.range (a.length + b.length - 1)) :
      C (((pmulf q a b).getD k 0 : Nat) : ZMod q) * X ^ (a.length + b.length - 1 - 1 - k) =
        ∑ i ∈ Finset.range a.length, ∑ j ∈ Finset.range b.length, if k = i + j then
          C ((a.getD i 0 : Nat) : ZMod q) * X ^ (a.length - 1 - i) * (C ((b.getD j 0 : Nat) : ZMod q) *
            X ^ (b.length - 1 - j)) else 0 := by
    rw [pmulf_getD q a b (Finset.mem_range.1 hk), sum_diagonal_eq_sum_pairs, ZMod.natCast_mod]
    push_cast
    simp only [map_sum, Finset.sum_mul]
    refine Finset.sum_congr rfl fun i hi => Finset.sum_congr rfl fun j hj => ?_
    rw [Finset.mem_range] at hi hj
    by_cases h : i + j = k
    · rw [if_pos h, if_pos h.symm,
        show a.length + b.length - 1 - 1 - k = (a.length - 1 - i) + (b.length - 1 - j) by omega, C_mul]
      ring
    · rw [if_neg h, if_neg (Ne.symm h), C_0, zero_mul]
  rw [polyOf, pmulf_length, Finset.sum_congr rfl coeff, Finset.sum_comm, polyOf, polyOf, Finset.sum_mul_sum]
  refine Finset.sum_congr rfl fun i hi => ?_
  rw [Finset.sum_comm]
  refine Finset.sum_congr rfl fun j hj => ?_
  rw [Finset.mem_range] at hi hj
  rw [Finset.sum_ite_eq', if_pos (Finset.mem_range.2 (by omega))]

/-! ### Symbols as residues (00_scope.md R11) -/

theorem natCast_addq (q a b : Nat) : ((addq q a b : Nat) : ZMod q) = a + b := by
  rw [addq, ZMod.natCast_mod, Nat.cast_add]

theorem natCast_mulq (q a b : Nat) : ((mulq q a b : Nat) : ZMod q) = a * b := by
  rw [mulq, ZMod.natCast_mod, Nat.cast_mul]

theorem natCast_subq {q : Nat} (hq : 0 < q) (a b : Nat) : ((subq q a b : Nat) : ZMod q) = a - b := by
  have hnonneg : 0 ≤ ((a : Int) - b) % q := Int.emod_nonneg _ (by omega)
  have hcast : (((((a : Int) - b) % q).toNat : Int) : ZMod q) = ((((a : Int) - b) % q : Int) : ZMod q) := by
    rw [Int.toNat_of_nonneg hnonneg]
  rw [subq, ← Int.cast_natCast, hcast, ZMod.intCast_mod]
  push_cast
  rfl

theorem natCast_negq {q a : Nat} (ha : a ≤ q) : ((negq q a : Nat) : ZMod q) = -a := by
  rw [negq, ZMod.natCast_mod, Nat.cast_sub ha, ZMod.natCast_self, zero_sub]

/-- A symbol in range that is 0 as a residue is 0. -/
theorem eq_zero_of_natCast {q a : Nat} (ha : a < q) (h : (a : ZMod q) = 0) : a = 0 :=
  Nat.eq_zero_of_dvd_of_lt ((ZMod.natCast_eq_zero_iff a q).1 h) ha

/-! ### The division (40_word.md R103) -/

theorem getD_set {w : Word} {i : Nat} (hi : i < w.length) (x j : Nat) :
    (w.set i x).getD j 0 = if j = i then x else w.getD j 0 := by
  rw [List.getD_eq_getElem?_getD, List.getElem?_set]
  by_cases hj : i = j
  · subst hj; simp [hi]
  · rw [if_neg hj, if_neg (Ne.symm hj), List.getD_eq_getElem?_getD]

/-- Writing one symbol moves the polynomial by the difference at its degree. -/
theorem polyOf_set (q : Nat) {w : Word} {i : Nat} (hi : i < w.length) (x : Nat) :
    polyOf q (w.set i x) = polyOf q w + C ((x : ZMod q) - (w.getD i 0 : Nat)) * X ^ (w.length - 1 - i) := by
  ext e
  simp only [coeff_add, coeff_polyOf, List.length_set, coeff_C_mul_X_pow, getD_set hi]
  by_cases he : e < w.length
  · simp only [he, if_true]
    by_cases hx : e = w.length - 1 - i
    · rw [if_pos (by omega), if_pos hx, show w.length - 1 - e = i by omega]
      ring
    · rw [if_neg (by omega), if_neg hx, add_zero]
  · rw [if_neg he, if_neg he, if_neg (by omega), add_zero]

section
variable {q : Nat} (hq : 0 < q) (w : Word) (k t : Nat) (b : Word)

/-- One symbol of the inner loop of `DIVMODF`. -/
def subtractSymbol (q k t : Nat) (b : Word) (w : Word) (j : Nat) : Word :=
  w.set (k + j) (subq q (w.getD (k + j) 0) (mulq q t (b.getD j 0)))

theorem subtractAt_eq_foldl (q : Nat) : subtractAt q w k t b = (List.range b.length).foldl (subtractSymbol q k t b) w :=
  rfl

include hq in
/-- The first `n` turns of the inner loop. -/
theorem foldl_subtractSymbol {n : Nat} (hn : k + n ≤ w.length) :
    ((List.range n).foldl (subtractSymbol q k t b) w).length = w.length ∧
    (∀ i, ((List.range n).foldl (subtractSymbol q k t b) w).getD i 0 =
      if k ≤ i ∧ i < k + n then subq q (w.getD i 0) (mulq q t (b.getD (i - k) 0)) else w.getD i 0) ∧
    polyOf q ((List.range n).foldl (subtractSymbol q k t b) w) = polyOf q w -
      ∑ j ∈ Finset.range n, C ((t : ZMod q) * (b.getD j 0 : Nat)) * X ^ (w.length - 1 - (k + j)) := by
  induction n with
  | zero => exact ⟨rfl, fun i => by rw [if_neg (by omega)]; rfl, by simp⟩
  | succ n ih =>
    obtain ⟨hlen, hget, hpoly⟩ := ih (by omega)
    rw [List.range_succ, List.foldl_append, List.foldl_cons, List.foldl_nil, subtractSymbol]
    have hi : k + n < ((List.range n).foldl (subtractSymbol q k t b) w).length := by omega
    refine ⟨by rw [List.length_set, hlen], fun i => ?_, ?_⟩
    · rw [getD_set hi, hget, hget]
      by_cases hik : i = k + n
      · rw [if_pos hik, if_neg (by omega), if_pos (by omega), hik, show k + n - k = n by omega]
      · rw [if_neg hik]
        exact if_congr (by omega) rfl rfl
    · rw [polyOf_set q hi, hpoly, natCast_subq hq, natCast_mulq, hlen, Finset.sum_range_succ]
      simp only [C_sub, C_mul]
      ring

include hq in
/-- Subtracting a multiple of `b` from position `k` on, in the symbols. -/
theorem getD_subtractAt (hk : k + b.length ≤ w.length) (i : Nat) : (subtractAt q w k t b).getD i 0 =
    if k ≤ i ∧ i < k + b.length then subq q (w.getD i 0) (mulq q t (b.getD (i - k) 0)) else w.getD i 0 :=
  (foldl_subtractSymbol hq w k t b hk).2.1 i

include hq in
/-- Subtracting a multiple of `b` from position `k` on, in the polynomial. -/
theorem polyOf_subtractAt (hk : k + b.length ≤ w.length) : polyOf q (subtractAt q w k t b) =
    polyOf q w - C (t : ZMod q) * X ^ (w.length - (k + b.length)) * polyOf q b := by
  rw [subtractAt_eq_foldl, (foldl_subtractSymbol hq w k t b hk).2.2, polyOf.eq_1 q b, Finset.mul_sum]
  congr 1
  refine Finset.sum_congr rfl fun j hj => ?_
  rw [Finset.mem_range] at hj
  rw [show w.length - 1 - (k + j) = (w.length - (k + b.length)) + (b.length - 1 - j) by omega, C_mul]
  ring

end

/-- A word whose first symbols are 0 has the polynomial of the rest. -/
theorem polyOf_drop_of_zero {q n : Nat} {w : Word} (h : ∀ i, i < n → w.getD i 0 = 0) :
    polyOf q (w.drop n) = polyOf q w := by
  induction n generalizing w with
  | zero => rfl
  | succ n ih =>
    cases w with
    | nil => rfl
    | cons x w =>
      have hx : x = 0 := h 0 (by omega)
      rw [List.drop_succ_cons, ih fun i hi => h (i + 1) (by omega), polyOf_cons, hx]
      simp

section
variable {q : Nat} {b : Word} (hq : 2 ≤ q) (hb : 1 ≤ b.length) (hunit : Nat.gcd (b.getD 0 0) q = 1)
include hq hb hunit

/-- A turn of `DIVMODF` clears the symbol at its position. -/
theorem getD_divTurn_self {st : Word × Word} {k : Nat} (hk : k + b.length ≤ st.1.length) :
    (divTurn q b st k).1.getD k 0 = 0 := by
  obtain ⟨-, -, hinv⟩ := invq_spec (exists_inverse hq hunit)
  have hinv' : ((b.getD 0 0 : Nat) : ZMod q) * (invq q (b.getD 0 0) : Nat) = 1 := by
    rw [← natCast_mulq, hinv, Nat.cast_one]
  rw [divTurn, getD_subtractAt (by omega) _ _ _ _ hk, if_pos (by omega), Nat.sub_self]
  refine eq_zero_of_natCast (subq_lt _ _ (by omega)) ?_
  rw [natCast_subq (by omega), natCast_mulq, natCast_mulq, mul_assoc, mul_comm ((invq _ _ : Nat) : ZMod q), hinv', mul_one,
    sub_self]

/-- The loop of `DIVMODF` after `n` turns: the quotient so far accounts for what was subtracted, and the first `n`
symbols of the working word are 0. -/
theorem divTurn_foldl_spec {w : Word} {n : Nat} (hn : n + b.length ≤ w.length + 1) :
    polyOf q w = polyOf q ((List.range n).foldl (divTurn q b) (w, [])).2 * X ^ (w.length + 1 - b.length - n) *
      polyOf q b + polyOf q ((List.range n).foldl (divTurn q b) (w, [])).1 ∧
    ∀ i, i < n → ((List.range n).foldl (divTurn q b) (w, [])).1.getD i 0 = 0 := by
  induction n with
  | zero => simp
  | succ n ih =>
    obtain ⟨hpoly, hzero⟩ := ih (by omega)
    have hlen := (divTurn_foldl b (List.range n) (w, []) (show 0 < q by omega)).1
    rw [List.range_succ, List.foldl_append, List.foldl_cons, List.foldl_nil]
    generalize (List.range n).foldl (divTurn q b) (w, []) = st at hpoly hzero hlen ⊢
    have hk : n + b.length ≤ st.1.length := by simp only [hlen]; omega
    refine ⟨?_, fun i hi => ?_⟩
    · rw [hpoly, divTurn, polyOf_subtractAt (by omega) _ _ _ _ hk, polyOf_append, polyOf_cons, hlen,
        show w.length + 1 - b.length - n = (w.length - (n + b.length)) + 1 by omega,
        show w.length + 1 - b.length - (n + 1) = w.length - (n + b.length) by omega]
      simp only [List.length_nil, polyOf_nil, List.length_singleton]
      ring
    · obtain rfl | hlt := Nat.eq_or_lt_of_le (Nat.le_of_lt_succ hi)
      · exact getD_divTurn_self hq hb hunit hk
      · rw [divTurn, getD_subtractAt (by omega) _ _ _ _ hk, if_neg (by omega), hzero i hlt]

/-- The division identity (40_word.md R109). -/
theorem polyOf_divmodf (a : Word) :
    polyOf q a = polyOf q (divmodf q a b).1 * polyOf q b + polyOf q (divmodf q a b).2 := by
  have hw : polyOf q a = polyOf q (zeros (b.length - 1 - a.length) ++ a) := by
    rw [polyOf_append, polyOf_zeros, zero_mul, zero_add]
  have hlenw : (zeros (b.length - 1 - a.length) ++ a).length = b.length - 1 - a.length + a.length := by simp
  obtain ⟨hpoly, hzero⟩ := divTurn_foldl_spec hq hb hunit (w := zeros (b.length - 1 - a.length) ++ a)
    (n := a.length + 1 - b.length) (by omega)
  have hlen := (divTurn_foldl b (List.range (a.length + 1 - b.length)) (zeros (b.length - 1 - a.length) ++ a, [])
    (show 0 < q by omega)).1
  rw [hw, hpoly, divmodf]
  dsimp only
  rw [polyOf_drop_of_zero fun i hi => hzero i (by simp only [hlen] at hi; omega),
    show (zeros (b.length - 1 - a.length) ++ a).length + 1 - b.length - (a.length + 1 - b.length) = 0 by omega,
    pow_zero, mul_one]

omit hq in
/-- The product with a word whose leading symbol is a unit has the full degree. -/
theorem eq_zero_of_degree_mul_lt {f : (ZMod q)[X]} (h : (f * polyOf q b).degree < (b.length - 1 : Nat)) : f = 0 := by
  by_contra hf
  have hlead : (polyOf q b).coeff (b.length - 1) = ((b.getD 0 0 : Nat) : ZMod q) := by
    rw [coeff_polyOf, if_pos (by omega), Nat.sub_self]
  have hu : IsUnit ((b.getD 0 0 : Nat) : ZMod q) := (ZMod.isUnit_iff_coprime _ _).2 hunit
  have hcoeff : (f * polyOf q b).coeff (f.natDegree + (b.length - 1)) = f.leadingCoeff * (b.getD 0 0 : Nat) := by
    rw [← hlead]
    refine coeff_mul_add_eq_of_natDegree_le le_rfl (natDegree_le_iff_coeff_eq_zero.2 fun e he => ?_)
    rw [coeff_polyOf, if_neg (by omega)]
  have hzero := coeff_eq_zero_of_degree_lt (h.trans_le (Nat.cast_le.2 (Nat.le_add_left _ f.natDegree)))
  rw [hcoeff, hu.mul_left_eq_zero, leadingCoeff_eq_zero] at hzero
  exact hf hzero

/-- Quotient and remainder are the only words of their lengths, in range, with the division identity. -/
theorem divmodf_unique {a qt r : Word} (ha : ValidWord q a) (hqtlen : qt.length = a.length + 1 - b.length)
    (hrlen : r.length = b.length - 1) (hqt : ValidWord q qt) (hr : ValidWord q r)
    (h : polyOf q a = polyOf q qt * polyOf q b + polyOf q r) : divmodf q a b = (qt, r) := by
  have hpos : 0 < q := by omega
  have hqlen' := divmodf_quotient_length a b hpos
  have hrlen' := divmodf_remainder_length a b hpos
  have hmul : (polyOf q qt - polyOf q (divmodf q a b).1) * polyOf q b =
      polyOf q (divmodf q a b).2 - polyOf q r := by
    have hid := polyOf_divmodf hq hb hunit a
    rw [h] at hid
    linear_combination hid
  have hdegree : ((polyOf q qt - polyOf q (divmodf q a b).1) * polyOf q b).degree < (b.length - 1 : Nat) := by
    rw [hmul]
    refine (degree_sub_le _ _).trans_lt (max_lt ?_ ?_)
    · exact hrlen' ▸ degree_polyOf_lt q _
    · exact hrlen ▸ degree_polyOf_lt q _
  have hzero := eq_zero_of_degree_mul_lt hb hunit hdegree
  rw [hzero, zero_mul] at hmul
  refine Prod.ext ?_ ?_
  · exact (polyOf_injective (hqtlen.trans hqlen'.symm) hqt (divmodf_quotient_lt a b hpos) (sub_eq_zero.1 hzero)).symm
  · exact polyOf_injective (hrlen'.trans hrlen.symm) (divmodf_remainder_lt b hpos ha) hr (sub_eq_zero.1 hmul.symm)

end

/-! ### Carries folded into a word (41_scrambler.md R121, 43_descrambler.md R145) -/

theorem foldCarry_nil (q : Nat) (f : Word) : foldCarry q f [] = f := by cases f <;> rfl

theorem foldCarry_getD (q : Nat) (f t : Word) (k : Nat) : (foldCarry q f t).getD k 0 =
    if k < f.length ∧ k < t.length then addq q (f.getD k 0) (t.getD k 0) else f.getD k 0 := by
  induction f generalizing t k with
  | nil => cases t <;> simp [foldCarry]
  | cons x f ih =>
    cases t with
    | nil => simp [foldCarry]
    | cons y t =>
      cases k with
      | zero => simp [foldCarry]
      | succ k =>
        rw [foldCarry, List.getD_cons_succ, ih]
        simp

/-- Folding a carry in adds its polynomial, shifted to the top. -/
theorem polyOf_foldCarry (q : Nat) {f t : Word} (h : t.length ≤ f.length) :
    polyOf q (foldCarry q f t) = polyOf q f + polyOf q t * X ^ (f.length - t.length) := by
  induction t generalizing f with
  | nil => simp [foldCarry_nil]
  | cons y t ih =>
    cases f with
    | nil => simp at h
    | cons x f =>
      rw [List.length_cons, List.length_cons] at h
      rw [foldCarry, polyOf_cons, polyOf_cons, polyOf_cons, ih (by omega), foldCarry_length, natCast_addq, C_add,
        List.length_cons, List.length_cons, show f.length + 1 - (t.length + 1) = f.length - t.length by omega,
        show f.length = t.length + (f.length - t.length) by omega, pow_add, Nat.add_sub_cancel_left]
      ring

end Sys2Proof.Machine
end

section
/-! PROOFS. The obligations of 00_scope.md section 5 and 40_word.md sections 1 and 3. -/

namespace Sys2Proof.Machine

/-- Settles O29: the coefficients along a diagonal, summed over all pairs of positions. -/
theorem productIsThePolynomialProduct : Obligations.ProductIsThePolynomialProduct := by
  intro q a b _ _
  refine ⟨pmulf_length q a b, fun k hk => ?_, polyOf_pmulf q a b⟩
  rw [pmulf_getD q a b hk, sum_diagonal_eq_sum_pairs]

/-- Settles O30: the loop's invariant gives the identity, and degrees make it unique. -/
theorem divisionIdentity : Obligations.DivisionIdentity := by
  intro q a b hq ha _ hb hunit
  have hpos : 0 < q := by omega
  refine ⟨divmodf_quotient_length a b hpos, divmodf_remainder_length a b hpos, divmodf_quotient_lt a b hpos,
    divmodf_remainder_lt b hpos ha, polyOf_divmodf hq hb hunit a, fun qt r hqtlen hrlen hqt hr h => ?_⟩
  rw [divmodf_unique hq hb hunit ha hqtlen hrlen hqt hr h]
  exact ⟨rfl, rfl⟩

/-- Settles O31: a unit has an inverse, which the search finds, and multiplication by the unit tells symbols apart. -/
theorem unitsHaveOneInverse : Obligations.UnitsHaveOneInverse := by
  intro q a hq hunit
  obtain ⟨hpos, hlt, hinv⟩ := invq_spec (exists_inverse hq hunit)
  exact ⟨hpos, hlt, hinv, fun b _ hb hmul => mulq_left_cancel hunit hb hlt (hmul.trans hinv.symm)⟩

/-- Settles O32. -/
theorem primePowerTestIsExact : Obligations.PrimePowerTestIsExact := fun _ => isPrimePower_iff

end Sys2Proof.Machine
end

section
/-! SUPPORT. The scrambling and the descrambling function through one full output and one dividend, and the inverse of
the one by the other (41_scrambler.md R121, 43_descrambler.md R145, R147, R148). -/

namespace Sys2Proof.Machine

open Polynomial

/-! ### Words by their symbols -/

theorem getD_take {w : Word} {n k : Nat} (hk : k < n) : (w.take n).getD k 0 = w.getD k 0 := by
  rw [List.getD_eq_getElem?_getD, List.getElem?_take_of_lt hk, List.getD_eq_getElem?_getD]

theorem getD_drop (w : Word) (n k : Nat) : (w.drop n).getD k 0 = w.getD (n + k) 0 := by
  rw [List.getD_eq_getElem?_getD, List.getElem?_drop, List.getD_eq_getElem?_getD]

/-- A word of length `n` is the list of its symbols. -/
theorem eq_map_range {w : Word} {n : Nat} {f : Nat → Nat} (hlen : w.length = n) (h : ∀ k, k < n → w.getD k 0 = f k) :
    w = (List.range n).map f := by
  refine List.ext_getElem (by simpa using hlen) fun k hk _ => ?_
  rw [List.getElem_map, List.getElem_range, ← h k (hlen ▸ hk), List.getD_eq_getElem _ _ hk]

theorem getD_lt_of_valid {q : Nat} {w : Word} (hq : 0 < q) (h : ValidWord q w) (k : Nat) : w.getD k 0 < q := by
  by_cases hk : k < w.length
  · rw [List.getD_eq_getElem _ _ hk]
    exact h _ (List.getElem_mem hk)
  · rwa [getD_of_length_le (by omega)]

theorem getD_append_zeros (w : Word) (j k : Nat) : (w ++ zeros j).getD k 0 = if k < w.length then w.getD k 0 else 0 := by
  rw [List.getD_eq_getElem?_getD, List.getElem?_append]
  split
  · rw [List.getD_eq_getElem?_getD]
  · rw [zeros, List.getElem?_replicate]
    split <;> rfl

/-! ### The scrambling function -/

/-- The full output `F` of the scrambling function (41_scrambler.md R121). -/
def scrFull (q : Nat) (cont : Bool) (g u t : Word) : Word :=
  if cont then foldCarry q (pmulf q u g) t else pmulf q u g

theorem scr_eq (q n d : Nat) (cont : Bool) (g u t : Word) : scr q n d cont g u t =
    ((scrFull q cont g u t).take n, if cont then ((scrFull q cont g u t).drop n).take (d - 1) else t) := by
  cases cont <;> rfl

@[simp] theorem scrFull_length (q : Nat) (cont : Bool) (g u t : Word) :
    (scrFull q cont g u t).length = u.length + g.length - 1 := by
  cases cont <;> simp [scrFull]

theorem scrFull_valid {q : Nat} (hq : 0 < q) (cont : Bool) (g u t : Word) : ValidWord q (scrFull q cont g u t) := by
  cases cont
  · exact pmulf_lt u g hq
  · exact foldCarry_lt t (pmulf_lt u g hq)

/-- Symbol `k` of the full output. -/
theorem scrFull_getD (q : Nat) (cont : Bool) (g u t : Word) {k : Nat} (hk : k < u.length + g.length - 1) :
    (scrFull q cont g u t).getD k 0 = ((∑ i ∈ Finset.range (k + 1), u.getD i 0 * g.getD (k - i) 0) +
      if cont = true ∧ k < t.length then t.getD k 0 else 0) % q := by
  cases cont
  · simp only [scrFull, Bool.false_eq_true, false_and, if_false, Nat.add_zero, pmulf_getD q u g hk]
  · simp only [scrFull, if_true, foldCarry_getD, pmulf_length, hk, true_and, pmulf_getD q u g hk]
    split
    · rw [addq, Nat.mod_add_mod]
    · rfl

/-- The full output is the product, with the carry added at the top. -/
theorem polyOf_scrFull (q : Nat) (cont : Bool) {g u t : Word} (ht : t.length = g.length - 1) (hg : 1 ≤ g.length) :
    polyOf q (scrFull q cont g u t) =
      polyOf q u * polyOf q g + if cont then polyOf q t * X ^ u.length else 0 := by
  cases cont
  · simp [scrFull, polyOf_pmulf]
  · simp only [scrFull, if_true]
    rw [polyOf_foldCarry q (by rw [pmulf_length]; omega), polyOf_pmulf, pmulf_length,
      show u.length + g.length - 1 - t.length = u.length by omega]

/-! ### The descrambling function -/

/-- The word that the descrambling function divides (43_descrambler.md R145). -/
def dscDividend (q d : Nat) (cont : Bool) (c r : Word) : Word :=
  if cont then foldCarry q (c ++ zeros (d - 1)) r else c ++ zeros (d - 1)

theorem dsc_eq (q n m d : Nat) (cont : Bool) (g c r : Word) : dsc q n m d cont g c r =
    (((divmodf q (dscDividend q d cont c r) g).1.take n).drop m,
      if cont then (divmodf q (dscDividend q d cont c r) g).2 else r) := by
  cases cont <;> rfl

@[simp] theorem dscDividend_length (q d : Nat) (cont : Bool) (c r : Word) :
    (dscDividend q d cont c r).length = c.length + (d - 1) := by
  cases cont <;> simp [dscDividend]

theorem dscDividend_valid {q : Nat} (hq : 0 < q) (d : Nat) (cont : Bool) {c : Word} (r : Word) (hc : ValidWord q c) :
    ValidWord q (dscDividend q d cont c r) := by
  have hzeros : ValidWord q (c ++ zeros (d - 1)) := fun x hx =>
    (List.mem_append.1 hx).elim (hc x) fun hx => by rwa [List.eq_of_mem_replicate hx]
  cases cont
  · exact hzeros
  · exact foldCarry_lt r hzeros

/-- Symbol `k` of the dividend. -/
theorem dscDividend_getD {q : Nat} (hq : 0 < q) (d : Nat) (cont : Bool) {c r : Word} (hc : ValidWord q c)
    (hr : r.length = d - 1) (k : Nat) : (dscDividend q d cont c r).getD k 0 =
      ((if k < c.length then c.getD k 0 else 0) + if cont = true ∧ k < d - 1 then r.getD k 0 else 0) % q := by
  have hlt : (if k < c.length then c.getD k 0 else 0) < q := by
    split
    · exact getD_lt_of_valid hq hc k
    · exact hq
  cases cont
  · simp only [dscDividend, Bool.false_eq_true, false_and, if_false, Nat.add_zero, getD_append_zeros,
      Nat.mod_eq_of_lt hlt]
  · simp only [dscDividend, if_true, foldCarry_getD, getD_append_zeros, List.length_append, zeros_length, hr, true_and]
    by_cases hk : k < d - 1
    · rw [if_pos (by omega), if_pos hk, addq]
    · rw [if_neg (by omega), if_neg hk, Nat.add_zero, Nat.mod_eq_of_lt hlt]

/-- The dividend is the codeword moved up, with the remainder added at the top. -/
theorem polyOf_dscDividend (q : Nat) {d : Nat} (cont : Bool) {c r : Word} (hr : r.length = d - 1) :
    polyOf q (dscDividend q d cont c r) =
      polyOf q c * X ^ (d - 1) + if cont then polyOf q r * X ^ c.length else 0 := by
  have hzeros : polyOf q (c ++ zeros (d - 1)) = polyOf q c * X ^ (d - 1) := by
    rw [polyOf_append, polyOf_zeros, zeros_length, add_zero]
  cases cont
  · simp [dscDividend, hzeros]
  · simp only [dscDividend, if_true]
    rw [polyOf_foldCarry q (by simp [hr]), hzeros, List.length_append, zeros_length, hr, Nat.add_sub_cancel]

/-! ### Descrambling a scrambled word (43_descrambler.md R147, R148) -/

theorem polyOf_map_negq {q : Nat} {w : Word} (h : ValidWord q w) : polyOf q (w.map (negq q)) = -polyOf q w := by
  induction w with
  | nil => simp
  | cons x w ih =>
    rw [List.map_cons, polyOf_cons, polyOf_cons, List.length_map, ih fun y hy => h y (List.mem_cons_of_mem _ hy),
      natCast_negq (h x (by simp)).le, C_neg]
    ring

/-- Descrambling the codeword of `u` gives `u` back without its first `m` symbols, while the remainder is the negated
carry; the next remainder is then the negated next carry. -/
theorem dsc_scr {q n m d : Nat} {cont : Bool} {g u t r : Word} (hq : 2 ≤ q) (hd : 1 ≤ d) (hg : g.length = d)
    (hu : u.length = n) (ht : t.length = d - 1) (hr : r.length = d - 1) (huv : ValidWord q u) (htv : ValidWord q t)
    (hunit : Nat.gcd (g.getD 0 0) q = 1) (hneg : cont = true → r = t.map (negq q)) :
    dsc q n m d cont g (scr q n d cont g u t).1 r =
      (u.drop m, if cont then (scr q n d cont g u t).2.map (negq q) else r) := by
  have hpos : 0 < q := by omega
  have hvalid := scrFull_valid hpos cont g u t
  have hfull := scrFull_length q cont g u t
  have hpoly := polyOf_scrFull q cont (g := g) (u := u) (t := t) (by omega) (by omega)
  rw [dsc_eq, scr_eq]
  dsimp only
  generalize scrFull q cont g u t = f at hvalid hfull hpoly ⊢
  have hclen : (f.take n).length = n := by rw [List.length_take]; omega
  have htail : (f.drop n).length = d - 1 := by rw [List.length_drop]; omega
  have hcvalid : ValidWord q (f.take n) := fun x hx => hvalid x (List.mem_of_mem_take hx)
  have htailvalid : ValidWord q (f.drop n) := fun x hx => hvalid x (List.mem_of_mem_drop hx)
  have hsplit : polyOf q f = polyOf q (f.take n) * X ^ (d - 1) + polyOf q (f.drop n) := by
    rw [← htail, ← polyOf_append, List.take_append_drop]
  have hdivision : divmodf q (dscDividend q d cont (f.take n) r) g = (u, (f.drop n).map (negq q)) := by
    refine divmodf_unique hq (by omega) hunit (dscDividend_valid hpos d cont r hcvalid)
      (by rw [dscDividend_length]; omega) (by rw [List.length_map]; omega) huv ?_ ?_
    · intro x hx
      obtain ⟨y, -, rfl⟩ := List.mem_map.1 hx
      exact negq_lt y hpos
    · rw [polyOf_dscDividend q cont hr, polyOf_map_negq htailvalid, hclen]
      rw [hsplit] at hpoly
      cases cont
      · simp only [Bool.false_eq_true, if_false, add_zero] at hpoly ⊢
        linear_combination hpoly
      · simp only [if_true] at hpoly ⊢
        rw [hneg rfl, polyOf_map_negq htv]
        rw [hu] at hpoly
        linear_combination hpoly
  rw [hdivision]
  dsimp only
  rw [List.take_of_length_le hu.le, List.take_of_length_le htail.le]
  cases cont <;> rfl

end Sys2Proof.Machine
end

section
/-! PROOFS. The scrambling and descrambling functions written out (41_scrambler.md R121, 43_descrambler.md R145). -/

namespace Sys2Proof.Machine

/-- Settles O60: codeword and next carry are the two parts of the full output, symbol by symbol; payload and next
remainder are those of the division of the dividend, by the division identity. -/
theorem scramblingFunctionsWrittenOut : Obligations.ScramblingFunctionsWrittenOut := by
  intro q n m d cont g u c old hq hd _ hg hu hc hold _ _ hcv _
  have hpos : 0 < q := by omega
  refine ⟨fun f hf => ?scramble, fun hunit => ?descramble⟩
  case scramble =>
    have hfull (k : Nat) (hk : k < n + (d - 1)) : (scrFull q cont g u old).getD k 0 = f k := by
      rw [scrFull_getD q cont g u old (by omega), hf, hold]
    have hlen := scrFull_length q cont g u old
    have hcodeword : (scrFull q cont g u old).take n = (List.range n).map f :=
      eq_map_range (by rw [List.length_take]; omega) fun k hk => by rw [getD_take hk, hfull k (by omega)]
    have hcarry : ((scrFull q cont g u old).drop n).take (d - 1) = (List.range (d - 1)).map fun k => f (n + k) :=
      eq_map_range (by rw [List.length_take, List.length_drop]; omega) fun k hk => by
        rw [getD_take hk, getD_drop, hfull (n + k) (by omega)]
    rw [scr_eq, hcodeword, hcarry]
  case descramble =>
    have hdlen := dscDividend_length q d cont c old
    have hqlen := divmodf_quotient_length (dscDividend q d cont c old) g hpos
    refine ⟨dscDividend q d cont c old, (divmodf q (dscDividend q d cont c old) g).1,
      (divmodf q (dscDividend q d cont c old) g).2, ?_, by omega, ?_, divmodf_quotient_lt _ _ hpos,
      divmodf_remainder_lt _ hpos (dscDividend_valid hpos d cont old hcv), polyOf_divmodf hq (by omega) hunit _, ?_⟩
    · refine eq_map_range (by omega) fun k _ => ?_
      rw [dscDividend_getD hpos d cont hcv hold k, hc]
    · rw [divmodf_remainder_length _ _ hpos, hg]
    · rw [dsc_eq, List.take_of_length_le (by omega)]

end Sys2Proof.Machine
end

section
/-! SUPPORT. What every command's end keeps, the errors each rule raises, and the never-written cells it reads. -/

namespace Sys2Proof.Machine

/-! ### What no rule writes -/

/-- `t` differs from `s` in nothing but the symbol cells, the register lengths, the active configuration, the Analyzer
and the selection state: the staging registers, the error record, the phase, the latch, the record of the model faults
and the host's side are those of `s`. -/
def KeepsInterface (s t : State) : Prop :=
  t = { s with
    mem := t.mem, wlen := t.wlen, active := t.active, cfgValid := t.cfgValid, rds := t.rds, rdsOvf := t.rdsOvf
    candValid := t.candValid, selPending := t.selPending, metric := t.metric, selValid := t.selValid, sel := t.sel
    wordcount := t.wordcount }

theorem KeepsConfig.keepsInterface {s t : State} (h : KeepsConfig s t) : KeepsInterface s t := by
  unfold KeepsConfig at h
  unfold KeepsInterface
  rw [h]

/-- No rule writes the staging registers, the error record, the latch or the host's side (44_control.md R157). -/
theorem bodyRule_keepsInterface {i : Instr} {s t : State} (h : (bodyRule s i).result = .ok t) : KeepsInterface s t := by
  by_cases hi : i = .configure
  · subst hi
    obtain ⟨g, aug, -, -, -, rfl⟩ := configureRule_ok h
    rfl
  · exact (bodyRule_keepsConfig hi h).keepsInterface

/-- What a command that ends leaves: its body's state with success, where it passed the check of `CFG_VALID`, or the
error record. -/
theorem exec_next {i : Instr} {s t : State} (h : exec i s = .next t) :
    (∃ u, (needsConfig i = true → s.cfgValid = true) ∧ (bodyRule s i).result = .ok u ∧
      t = u.succeed.recordFault (commandRule i s).unwritten) ∨
    ∃ c, (commandRule i s).result = .error c ∧ t = (s.raiseErr c).recordFault (commandRule i s).unwritten := by
  rw [exec_eq_complete, complete_next_iff] at h
  obtain ⟨u, hu, rfl⟩ | ⟨c, hc, rfl⟩ := h
  · refine .inl ⟨u, fun hneeds => ?_, bodyRule_ok_of_commandRule hu, rfl⟩
    rw [commandRule, if_pos hneeds] at hu
    exact (configured_ok_iff.1 hu).1
  · exact .inr ⟨c, hc, rfl⟩

/-! ### The errors of a rule (60_exceptions.md R170) -/

theorem ite_raise_error_iff {α : Type} {p : Prop} [Decidable p] {c e : ErrCode} {x : Checked α} :
    (if p then raise c else x).result = .error e ↔ p ∧ c = e ∨ ¬ p ∧ x.result = .error e := by
  split <;> simp_all

theorem operand_error {s : State} {i : Nat} {c : ErrCode} (h : (s.operand i).result = .error c) :
    c = .symbolOutOfRange := checkSyms_error h

theorem elementwise_error {op : Nat → Nat → Nat → Nat} {rd rs1 rs2 : Nat} {s : State} {c : ErrCode}
    (h : (elementwise op rd rs1 rs2 s).result = .error c) : c = .badInputLength ∨ c = .symbolOutOfRange := by
  unfold elementwise at h
  obtain ⟨-, rfl⟩ | ⟨-, h⟩ := ite_raise_error_iff.1 h
  · exact .inl rfl
  · obtain h | ⟨a, -, h⟩ := andThen_error_iff.1 h
    · exact .inr (operand_error h)
    · obtain h | ⟨b, -, h⟩ := andThen_error_iff.1 h
      · exact .inr (operand_error h)
      · cases h

theorem pmulRule_error {rd rs1 rs2 : Nat} {s : State} {c : ErrCode} (h : (pmulRule rd rs1 rs2 s).result = .error c) :
    c = .badInputLength ∨ c = .lengthOverflow ∨ c = .symbolOutOfRange := by
  unfold pmulRule at h
  obtain ⟨-, rfl⟩ | ⟨-, h⟩ := ite_raise_error_iff.1 h
  · exact .inl rfl
  · obtain ⟨-, rfl⟩ | ⟨-, h⟩ := ite_raise_error_iff.1 h
    · exact .inr (.inl rfl)
    · obtain h | ⟨a, -, h⟩ := andThen_error_iff.1 h
      · exact .inr (.inr (operand_error h))
      · obtain h | ⟨b, -, h⟩ := andThen_error_iff.1 h
        · exact .inr (.inr (operand_error h))
        · cases h

theorem pdivmodRule_error {rd rd2 rs1 rs2 : Nat} {s : State} {c : ErrCode}
    (h : (pdivmodRule rd rd2 rs1 rs2 s).result = .error c) :
    c = .registerConflict ∨ c = .badInputLength ∨ c = .symbolOutOfRange ∨ c = .fieldValidity := by
  unfold pdivmodRule at h
  obtain ⟨-, rfl⟩ | ⟨-, h⟩ := ite_raise_error_iff.1 h
  · exact .inl rfl
  · obtain ⟨-, rfl⟩ | ⟨-, h⟩ := ite_raise_error_iff.1 h
    · exact .inr (.inl rfl)
    · obtain h | ⟨a, -, h⟩ := andThen_error_iff.1 h
      · exact .inr (.inr (.inl (operand_error h)))
      · obtain h | ⟨b, -, h⟩ := andThen_error_iff.1 h
        · exact .inr (.inr (.inl (operand_error h)))
        · split at h
          · cases h
          · exact .inr (.inr (.inr (Except.error.inj h).symm))

theorem payload_error {rs1 : Nat} {s : State} {c : ErrCode} (h : (payload rs1 s).result = .error c) :
    c = .badInputLength ∨ c = .symbolOutOfRange := by
  unfold payload at h
  obtain ⟨-, rfl⟩ | ⟨-, h⟩ := ite_raise_error_iff.1 h
  · exact .inl rfl
  · exact .inr (operand_error h)

theorem scrambleRule_error {rd rs1 slot : Nat} {s : State} {c : ErrCode}
    (h : (scrambleRule rd rs1 slot s).result = .error c) :
    c = .badSlot ∨ c = .badInputLength ∨ c = .symbolOutOfRange := by
  unfold scrambleRule at h
  obtain ⟨-, rfl⟩ | ⟨-, h⟩ := ite_raise_error_iff.1 h
  · exact .inl rfl
  · obtain h | ⟨p, -, h⟩ := andThen_error_iff.1 h
    · exact .inr (payload_error h)
    · cases h

theorem candidatesRule_error {rs1 : Nat} {s : State} {c : ErrCode} (h : (candidatesRule rs1 s).result = .error c) :
    c = .badInputLength ∨ c = .symbolOutOfRange := by
  obtain h | ⟨p, -, h⟩ := andThen_error_iff.1 h
  · exact payload_error h
  · cases h

theorem candidateMetric_ok (s : State) (slot : Nat) : ∃ m, (s.candidateMetric slot).result = .ok m := by
  unfold State.candidateMetric
  rw [candidate_eq]
  exact ⟨_, rfl⟩

/-- The metrics never fail, so SELECT's one error is that no candidates are pending. -/
theorem selectRule_error {s : State} {c : ErrCode} (h : (selectRule s).result = .error c) :
    s.candValid = false ∧ c = .noCandidates := by
  have noError (slot : Nat) : (s.candidateMetric slot).result ≠ .error c := by
    obtain ⟨m, hm⟩ := candidateMetric_ok s slot
    simp [hm]
  unfold selectRule at h
  split at h
  · obtain h | ⟨m0, -, h⟩ := andThen_error_iff.1 h
    · exact absurd h (noError 0)
    · obtain h | ⟨ms, -, h⟩ := andThen_error_iff.1 h
      · obtain ⟨slot, -, h⟩ := gather_error h
        exact absurd h (noError slot)
      · cases h
  · rename_i hv
    exact ⟨by simpa using hv, (Except.error.inj h).symm⟩

theorem commitRule_error {rd : Nat} {s : State} {c : ErrCode} (h : (commitRule rd s).result = .error c) :
    s.selValid = false ∧ c = .noSelection := by
  unfold commitRule at h
  split at h
  · obtain h | ⟨w, -, h⟩ := andThen_error_iff.1 h
    · rw [candidate_eq] at h
      cases h
    · cases h
  · rename_i hv
    exact ⟨by simpa using hv, (Except.error.inj h).symm⟩

/-- ENCODE fails only as CANDIDATES does: its candidates and its selection are then pending. -/
theorem encodeRule_error {rd rs1 : Nat} {s : State} {c : ErrCode} (h : (encodeRule rd rs1 s).result = .error c) :
    (candidatesRule rs1 s).result = .error c := by
  obtain h | ⟨s1, h1, h⟩ := andThen_error_iff.1 h
  · exact h
  · obtain ⟨p, -, rfl⟩ := candidatesRule_ok h1
    obtain h | ⟨s2, h2, h⟩ := andThen_error_iff.1 h
    · cases (selectRule_error h).1
    · obtain ⟨-, m0, ms, -, -, rfl⟩ := selectRule_ok h2
      cases (commitRule_error h).1

theorem decodeRule_error {rd rs1 : Nat} {s : State} {c : ErrCode} (h : (decodeRule rd rs1 s).result = .error c) :
    c = .badScrambleInput ∨ c = .symbolOutOfRange ∨ c = .fieldValidity := by
  unfold decodeRule at h
  obtain ⟨-, rfl⟩ | ⟨-, h⟩ := ite_raise_error_iff.1 h
  · exact .inl rfl
  · obtain h | ⟨w, -, h⟩ := andThen_error_iff.1 h
    · exact .inr (.inl (operand_error h))
    · split at h
      · cases h
      · exact .inr (.inr (Except.error.inj h).symm)

theorem configureNumbers_error {q n m d numAug alpha msel : Nat} {c : ErrCode}
    (h : (configureNumbers q n m d numAug alpha msel).result = .error c) :
    c ∈ [ErrCode.augmentingLengthTooSmall, .augmentingCodewordLengthMismatch, .divisorLengthTooSmall, .badFieldSize,
      .badSelectionMethod, .lengthOverflow, .badSlotCount] := by
  unfold configureNumbers at h
  simp only [ite_raise_error_iff, done_result, reduceCtorEq, and_false, or_false] at h
  simp only [List.mem_cons, List.not_mem_nil, or_false]
  tauto

theorem configureRule_error {s : State} {c : ErrCode} (h : (configureRule s).result = .error c) :
    c = .symbolOutOfRange ∨ c ∈ [ErrCode.augmentingLengthTooSmall, .augmentingCodewordLengthMismatch,
      .divisorLengthTooSmall, .badFieldSize, .badSelectionMethod, .lengthOverflow, .badSlotCount] := by
  unfold configureRule at h
  simp only [andThen_error_iff, done_result, reduceCtorEq, and_false, exists_false, or_false] at h
  obtain h | ⟨-, -, h | ⟨-, -, h⟩⟩ := h
  · exact .inr (configureNumbers_error h)
  · exact .inl (checkSyms_error h)
  · obtain ⟨slot, -, h⟩ := gather_error h
    exact .inl (checkSyms_error h)

/-- The body of a command raises only errors that the table lists for it. -/
theorem bodyRule_error_reportable {i : Instr} {s : State} {c : ErrCode} (h : (bodyRule s i).result = .error c) :
    c.code ∈ reportable i := by
  cases i with
  | nop => cases h
  | configure =>
    obtain rfl | h := configureRule_error h
    · decide
    · simp only [List.mem_cons, List.not_mem_nil, or_false] at h
      obtain rfl | rfl | rfl | rfl | rfl | rfl | rfl := h <;> simp [reportable, ErrCode.code]
  | resetState => cases h
  | wadd => obtain rfl | rfl := elementwise_error h <;> simp [reportable, ErrCode.code]
  | wmul => obtain rfl | rfl := elementwise_error h <;> simp [reportable, ErrCode.code]
  | pmul => obtain rfl | rfl | rfl := pmulRule_error h <;> simp [reportable, ErrCode.code]
  | pdivmod => obtain rfl | rfl | rfl | rfl := pdivmodRule_error h <;> simp [reportable, ErrCode.code]
  | scramble => obtain rfl | rfl | rfl := scrambleRule_error h <;> simp [reportable, ErrCode.code]
  | candidates => obtain rfl | rfl := candidatesRule_error h <;> simp [reportable, ErrCode.code]
  | select => obtain ⟨-, rfl⟩ := selectRule_error h; simp [reportable, ErrCode.code]
  | commit => obtain ⟨-, rfl⟩ := commitRule_error h; simp [reportable, ErrCode.code]
  | encode => obtain rfl | rfl := candidatesRule_error (encodeRule_error h) <;> simp [reportable, ErrCode.code]
  | decode => obtain rfl | rfl | rfl := decodeRule_error h <;> simp [reportable, ErrCode.code]

theorem notConfigured_reportable {i : Instr} (h : needsConfig i = true) : ErrCode.notConfigured.code ∈ reportable i := by
  revert h
  cases i <;> simp [needsConfig, reportable, ErrCode.code]

/-! ### The never-written cells a rule reads (60_exceptions.md R177 (a)) -/

/-- The never-written cell that the check reads, if it reads one, is one of `s`. -/
def ReadsGapsOf (s : State) {α : Type} (x : Checked α) : Prop := ∀ a, x.unwritten = some a → s.mem.read a = none

theorem firstUnwritten_read {s : State} {cells : List Nat} {a : Nat} (h : s.firstUnwritten cells = some a) :
    s.mem.read a = none := by
  simpa using List.find?_some h

theorem readsGapsOf_done (s : State) {α : Type} (x : α) : ReadsGapsOf s (done x) := fun _ h => by cases h

theorem readsGapsOf_raise (s : State) {α : Type} (c : ErrCode) : ReadsGapsOf s (raise c : Checked α) :=
  fun _ h => by cases h

theorem ReadsGapsOf.andThen {s : State} {α β : Type} {x : Checked α} {f : α → Checked β} (hx : ReadsGapsOf s x)
    (hf : ∀ a, x.result = .ok a → ReadsGapsOf s (f a)) : ReadsGapsOf s (x.andThen f) := by
  intro u h
  obtain h | ⟨a, ha, h⟩ := andThen_unwritten h
  · exact hx u h
  · exact hf a ha u h

theorem ReadsGapsOf.ite {s : State} {α : Type} {p : Prop} [Decidable p] {x y : Checked α} (hx : ReadsGapsOf s x)
    (hy : ReadsGapsOf s y) : ReadsGapsOf s (if p then x else y) := by
  split
  · exact hx
  · exact hy

theorem readsGapsOf_checkSyms (q : Nat) (s : State) (a k : Nat) : ReadsGapsOf s (checkSyms q s a k) := by
  intro u h
  obtain hv | ⟨j, hb⟩ := valid_or_firstBad q (s.seenWord a k)
  · rw [checkSyms_valid hv] at h
    exact firstUnwritten_read h
  · rw [checkSyms_bad hb] at h
    exact firstUnwritten_read h

theorem readsGapsOf_operand (s : State) (i : Nat) : ReadsGapsOf s (s.operand i) := readsGapsOf_checkSyms _ _ _ _

theorem readsGapsOf_payload (s : State) (rs1 : Nat) : ReadsGapsOf s (payload rs1 s) :=
  (readsGapsOf_raise s _).ite (readsGapsOf_operand s rs1)

theorem readsGapsOf_candidate (s : State) (slot : Nat) : ReadsGapsOf s (s.candidate slot) := by
  intro u h
  rw [candidate_eq] at h
  exact firstUnwritten_read h

theorem readsGapsOf_gather {s : State} {α : Type} {f : Nat → Checked α} (hf : ∀ i, ReadsGapsOf s (f i)) (is : List Nat) :
    ReadsGapsOf s (gather f is) := by
  induction is with
  | nil => exact readsGapsOf_done s _
  | cons i is ih => exact (hf i).andThen fun _ _ => ih.andThen fun _ _ => readsGapsOf_done s _

theorem readsGapsOf_elementwise (op : Nat → Nat → Nat → Nat) (rd rs1 rs2 : Nat) (s : State) :
    ReadsGapsOf s (elementwise op rd rs1 rs2 s) :=
  (readsGapsOf_raise s _).ite <| (readsGapsOf_operand s rs1).andThen fun _ _ =>
    (readsGapsOf_operand s rs2).andThen fun _ _ => readsGapsOf_done s _

theorem readsGapsOf_candidatesRule (rs1 : Nat) (s : State) : ReadsGapsOf s (candidatesRule rs1 s) :=
  (readsGapsOf_payload s rs1).andThen fun _ _ => readsGapsOf_done s _

theorem readsGapsOf_selectRule (s : State) : ReadsGapsOf s (selectRule s) := by
  have metric (slot : Nat) : ReadsGapsOf s (s.candidateMetric slot) :=
    (readsGapsOf_candidate s slot).andThen fun _ _ => readsGapsOf_done s _
  exact ReadsGapsOf.ite ((metric 0).andThen fun _ _ => (readsGapsOf_gather metric _).andThen fun _ _ =>
    readsGapsOf_done s _) (readsGapsOf_raise s _)

theorem readsGapsOf_commitRule (rd : Nat) (s : State) : ReadsGapsOf s (commitRule rd s) :=
  ReadsGapsOf.ite ((readsGapsOf_candidate s _).andThen fun _ _ => readsGapsOf_done s _) (readsGapsOf_raise s _)

/-- A cell that is unwritten after a word has been stored was so before. -/
theorem read_none_of_storeWord {m : Memory} {a x : Nat} {w : Word} (h : (storeWord m a w).read x = none) :
    m.read x = none := by
  by_cases hx : ∀ j, j < w.length → x ≠ a + 4 * j
  · rwa [read_storeWord_outside m a w x hx] at h
  · push Not at hx
    obtain ⟨j, hj, rfl⟩ := hx
    rw [read_storeWord_inside m a w j hj] at h
    cases h

theorem read_none_of_storeCandidates {slot : Nat} {s : State} {l : List (Word × Word)} {x : Nat}
    (h : (storeCandidates slot s l).mem.read x = none) : s.mem.read x = none := by
  induction l generalizing slot s with
  | nil => exact h
  | cons ct l ih =>
    have hnext := ih h
    split at hnext
    · exact read_none_of_storeWord (read_none_of_storeWord hnext)
    · exact read_none_of_storeWord hnext

/-- What CANDIDATES leaves unwritten was unwritten before, so ENCODE's later reads meet only gaps of its first state. -/
theorem readsGapsOf_encodeRule (rd rs1 : Nat) (s : State) : ReadsGapsOf s (encodeRule rd rs1 s) := by
  refine (readsGapsOf_candidatesRule rs1 s).andThen fun s1 h1 => ?_
  have back (x : Nat) (h : s1.mem.read x = none) : s.mem.read x = none := by
    obtain ⟨p, -, rfl⟩ := candidatesRule_ok h1
    exact read_none_of_storeCandidates h
  refine ReadsGapsOf.andThen (fun a ha => back a (readsGapsOf_selectRule s1 a ha)) fun s2 h2 a ha => ?_
  obtain ⟨-, m0, ms, -, -, rfl⟩ := selectRule_ok h2
  have hgap := readsGapsOf_commitRule rd _ a ha
  exact back a hgap

theorem readsGapsOf_bodyRule (s : State) (i : Instr) : ReadsGapsOf s (bodyRule s i) := by
  cases i with
  | nop => exact readsGapsOf_done s _
  | configure =>
    refine ReadsGapsOf.andThen (fun a ha => ?_) fun _ _ => (readsGapsOf_checkSyms _ s _ _).andThen fun _ _ =>
      (readsGapsOf_gather (fun slot => readsGapsOf_checkSyms _ s _ _) _).andThen fun _ _ => readsGapsOf_done s _
    unfold configureNumbers at ha
    repeat rw [apply_ite Checked.unwritten, raise_unwritten] at ha
    simp at ha
  | resetState => exact readsGapsOf_done s _
  | wadd rd rs1 rs2 => exact readsGapsOf_elementwise addq rd rs1 rs2 s
  | wmul rd rs1 rs2 => exact readsGapsOf_elementwise mulq rd rs1 rs2 s
  | pmul rd rs1 rs2 =>
    exact (readsGapsOf_raise s _).ite <| (readsGapsOf_raise s _).ite <| (readsGapsOf_operand s rs1).andThen fun _ _ =>
      (readsGapsOf_operand s rs2).andThen fun _ _ => readsGapsOf_done s _
  | pdivmod rd rd2 rs1 rs2 =>
    exact (readsGapsOf_raise s _).ite <| (readsGapsOf_raise s _).ite <| (readsGapsOf_operand s rs1).andThen fun _ _ =>
      (readsGapsOf_operand s rs2).andThen fun _ _ => (readsGapsOf_done s _).ite (readsGapsOf_raise s _)
  | scramble rd rs1 slot =>
    exact (readsGapsOf_raise s _).ite <| (readsGapsOf_payload s rs1).andThen fun _ _ => readsGapsOf_done s _
  | candidates rs1 => exact readsGapsOf_candidatesRule rs1 s
  | select => exact readsGapsOf_selectRule s
  | commit rd => exact readsGapsOf_commitRule rd s
  | encode rd rs1 => exact readsGapsOf_encodeRule rd rs1 s
  | decode rd rs1 =>
    exact (readsGapsOf_raise s _).ite <| (readsGapsOf_operand s rs1).andThen fun _ _ =>
      (readsGapsOf_done s _).ite (readsGapsOf_raise s _)

theorem readsGapsOf_commandRule (s : State) (i : Instr) : ReadsGapsOf s (commandRule i s) :=
  ((readsGapsOf_bodyRule s i).ite (readsGapsOf_raise s _)).ite (readsGapsOf_bodyRule s i)

end Sys2Proof.Machine
end

section
/-! PROOFS. The obligations of 60_exceptions.md on the end of a command. -/

namespace Sys2Proof.Machine

/-- Settles O10: a failed command has taken the error protocol, and nothing but the record of the model faults after
it. -/
theorem failedCommandsChangeOnlyTheErrorRecord : Obligations.FailedCommandsChangeOnlyTheErrorRecord := by
  intro i s t h ht
  obtain ⟨c, x, rfl⟩ := exec_failure h ht
  cases x <;> rfl

/-- Settles O11: neither the body of a command nor the error protocol writes the latch or the host's side, and only the
error protocol writes ERR and ERRINFO. -/
theorem completedCommandsReturnToIdle : Obligations.CompletedCommandsReturnToIdle := by
  intro i s t h
  obtain ⟨u, -, hu, rfl⟩ | ⟨c, -, rfl⟩ := exec_next h
  · have hkeep := bodyRule_keepsInterface hu
    unfold KeepsInterface at hkeep
    rw [hkeep]
    simp
  · simpa using fun hzero => absurd hzero (errCode_ne_zero c)

/-- Settles O12, rule by rule. -/
theorem errorCodesComeFromTheirCommands : Obligations.ErrorCodesComeFromTheirCommands := by
  intro i s t h
  obtain ⟨u, -, -, rfl⟩ | ⟨c, hc, rfl⟩ := exec_next h
  · exact .inl (by simp)
  · right
    rw [recordFault_errcode, raiseErr_errcode]
    unfold commandRule at hc
    split at hc
    · rename_i hneeds
      obtain ⟨-, rfl⟩ | ⟨-, hc⟩ := configured_error_iff.1 hc
      · exact notConfigured_reportable hneeds
      · exact bodyRule_error_reportable hc
    · exact bodyRule_error_reportable hc

/-- Settles O13: ending a command is total, and what it records is the never-written cell its rule read. -/
theorem everyCommandEnds : Obligations.EveryCommandEnds := by
  intro i s
  have hend (t : State) (hlatch : t.cmdLatch = s.cmdLatch) (hfaults : t.modelFaults = s.modelFaults) :
      (t.recordFault (commandRule i s).unwritten).modelFaults = s.modelFaults ∨ ∃ a, s.mem.read a = none ∧
        (t.recordFault (commandRule i s).unwritten).modelFaults = ⟨s.cmdLatch, a⟩ :: s.modelFaults := by
    have hgap := readsGapsOf_commandRule s i
    cases hx : (commandRule i s).unwritten with
    | none => exact .inl hfaults
    | some a => exact .inr ⟨a, hgap a hx, by rw [recordFault_some, hlatch, hfaults]⟩
  obtain ⟨t, h⟩ := complete_ends s (commandRule i s)
  rw [← exec_eq_complete] at h
  refine ⟨t, h, ?_⟩
  obtain ⟨u, -, hu, rfl⟩ | ⟨c, -, rfl⟩ := exec_next h
  · have hkeep := bodyRule_keepsInterface hu
    unfold KeepsInterface at hkeep
    exact hend _ (by rw [hkeep]; rfl) (by rw [hkeep]; rfl)
  · exact hend _ rfl rfl

end Sys2Proof.Machine
end

section
/-! SUPPORT. How a command ends that has read its operands: the reading of one and of two source registers, and the
checks of CONFIGURE. -/

namespace Sys2Proof.Machine

/-! ### The end of a command that has read cells -/

/-- Under a valid configuration a command is its body. -/
theorem exec_of_valid {s : State} (i : Instr) (h : s.cfgValid = true) : exec i s = complete s (bodyRule s i) := by
  rw [exec_eq_complete, commandRule, configured_of_valid _ h, ite_self]

theorem complete_raise_eq (s : State) (c : ErrCode) : complete s (raise c) = .next (s.failedWith c.code) := rfl

theorem complete_error_reading (s : State) (c : ErrCode) (cells : List Nat) :
    complete s ⟨s.firstUnwritten cells, .error c⟩ = .next (s.failedReading c.code cells) := by
  rw [complete_error, raiseErr_recordFault]

/-- The state in which a command ends with success that began in `s`, has read these cells and leaves `u`. -/
def endedReading (s u : State) (cells : List Nat) : State := { u.succeed with modelFaults := s.recorded cells }

/-- A rule that answers a state after reading these cells ends the command with success. -/
theorem exec_of_rule_ok {i : Instr} {s u : State} {cells : List Nat}
    (h : commandRule i s = ⟨s.firstUnwritten cells, .ok u⟩) : exec i s = .next (endedReading s u cells) := by
  have hkeep := bodyRule_keepsInterface (bodyRule_ok_of_commandRule (congrArg Checked.result h))
  unfold KeepsInterface at hkeep
  have hfaults := recordFault_modelFaults s u.succeed cells (by rw [hkeep]; rfl) (by rw [hkeep]; rfl)
  rw [exec_eq_complete, h, complete_ok, endedReading, ← hfaults]
  cases s.firstUnwritten cells <;> rfl

theorem commandRule_of_valid {s : State} (i : Instr) (h : s.cfgValid = true) : commandRule i s = bodyRule s i := by
  rw [commandRule, configured_of_valid _ h, ite_self]

theorem exec_of_body_ok {i : Instr} {s u : State} {cells : List Nat} (hv : s.cfgValid = true)
    (h : bodyRule s i = ⟨s.firstUnwritten cells, .ok u⟩) : exec i s = .next (endedReading s u cells) :=
  exec_of_rule_ok ((commandRule_of_valid i hv).trans h)

/-! ### Source registers (40_word.md R100) -/

section
variable {s : State} {i rs1 rs2 j : Nat} {α : Type}

/-- A source register in range is read whole. -/
theorem operand_valid (h : ValidWord s.active.q (s.seenReg i)) :
    s.operand i = ⟨s.firstUnwritten (s.regCells i), .ok (s.seenReg i)⟩ := checkSyms_valid h

/-- A rule that reads one source register stops at its first symbol out of range. -/
theorem operand_andThen_bad (f : Word → Checked α) (h : FirstBad s.active.q (s.seenReg i) j) :
    (s.operand i).andThen f = ⟨s.firstUnwritten ((s.regCells i).take (j + 1)), .error .symbolOutOfRange⟩ := by
  rw [operand_bad h, andThen_error]

/-- A rule that reads two source registers reads both whole when they are in range. -/
theorem operands_valid (f : Word → Word → Checked α) {a b : Word} (ha : s.seenReg rs1 = a) (hb : s.seenReg rs2 = b)
    (hav : ValidWord s.active.q a) (hbv : ValidWord s.active.q b) :
    ((s.operand rs1).andThen fun a => (s.operand rs2).andThen fun b => f a b) =
      ⟨(s.firstUnwritten (s.regCells rs1 ++ s.regCells rs2)).or (f a b).unwritten, (f a b).result⟩ := by
  subst ha hb
  rw [operand_valid hav, andThen_ok, operand_valid hbv, andThen_ok, firstUnwritten_append, Option.or_assoc]

/-- A rule that reads two source registers, the first in range, stops at the first symbol out of range of the second. -/
theorem operands_bad_second (f : Word → Word → Checked α) (h1 : ValidWord s.active.q (s.seenReg rs1))
    (h2 : FirstBad s.active.q (s.seenReg rs2) j) :
    ((s.operand rs1).andThen fun a => (s.operand rs2).andThen fun b => f a b) =
      ⟨s.firstUnwritten (s.regCells rs1 ++ (s.regCells rs2).take (j + 1)), .error .symbolOutOfRange⟩ := by
  rw [operand_valid h1, andThen_ok, operand_andThen_bad _ h2, firstUnwritten_append]

end

/-! ### The elementwise commands, the payload, and their errors -/

section
variable {s : State} {rd rs1 rs2 j : Nat} (op : Nat → Nat → Nat → Nat)

theorem elementwise_of_length_ne (h : s.len rs1 ≠ s.len rs2) : elementwise op rd rs1 rs2 s = raise .badInputLength :=
  if_pos h

theorem elementwise_bad_first (hlen : s.len rs1 = s.len rs2) (h : FirstBad s.active.q (s.seenReg rs1) j) :
    elementwise op rd rs1 rs2 s =
      ⟨s.firstUnwritten ((s.regCells rs1).take (j + 1)), .error .symbolOutOfRange⟩ := by
  rw [elementwise, if_neg (not_not.2 hlen), operand_andThen_bad _ h]

theorem elementwise_bad_second (hlen : s.len rs1 = s.len rs2) (h1 : ValidWord s.active.q (s.seenReg rs1))
    (h2 : FirstBad s.active.q (s.seenReg rs2) j) : elementwise op rd rs1 rs2 s =
      ⟨s.firstUnwritten (s.regCells rs1 ++ (s.regCells rs2).take (j + 1)), .error .symbolOutOfRange⟩ := by
  rw [elementwise, if_neg (not_not.2 hlen), operands_bad_second _ h1 h2]

end

section
variable {s : State} {rd rs1 slot j : Nat}

theorem payload_of_length_ne (h : s.len rs1 ≠ s.active.n - s.active.m) : payload rs1 s = raise .badInputLength :=
  if_pos h

theorem payload_bad (hlen : s.len rs1 = s.active.n - s.active.m) (h : FirstBad s.active.q (s.seenReg rs1) j) :
    payload rs1 s = ⟨s.firstUnwritten ((s.regCells rs1).take (j + 1)), .error .symbolOutOfRange⟩ := by
  rw [payload, if_neg (not_not.2 hlen), operand_bad h]

/-- An error of the payload is the error of SCRAMBLE on a slot of the configuration, of CANDIDATES and of ENCODE. -/
theorem scrambling_of_payload_error {u : Option Nat} {c : ErrCode} (h : payload rs1 s = ⟨u, .error c⟩) :
    (slot < s.active.N → scrambleRule rd rs1 slot s = ⟨u, .error c⟩) ∧ candidatesRule rs1 s = ⟨u, .error c⟩ ∧
      encodeRule rd rs1 s = ⟨u, .error c⟩ := by
  have hcand : candidatesRule rs1 s = ⟨u, .error c⟩ := by rw [candidatesRule, h, andThen_error]
  refine ⟨fun hslot => ?_, hcand, ?_⟩
  · rw [scrambleRule, if_neg (by omega), h, andThen_error]
  · rw [encodeRule, hcand, andThen_error]

end

/-! ### `gather` up to the first check that fails -/

/-- The indices below `n`, split at one of them. -/
theorem range_split {x n : Nat} (h : x < n) : List.range n = List.range x ++ x :: List.range' (x + 1) (n - x - 1) := by
  have hn : n = x + ((n - x - 1) + 1) := by omega
  conv_lhs => rw [hn, List.range_add]
  rw [List.append_cancel_left_eq, List.range'_eq_map_range, List.range_succ_eq_map]
  simp [Function.comp_def, Nat.add_assoc, Nat.add_comm 1]

/-- `gather` with checks that answer before index `i` goes on to check `i`. -/
theorem gather_append_cons {α : Type} {f : Nat → Checked α} {s : State} {cells : Nat → List Nat} {v : Nat → α}
    {pre post : List Nat} {i : Nat} (hpre : ∀ j ∈ pre, f j = ⟨s.firstUnwritten (cells j), .ok (v j)⟩) :
    (gather f (pre ++ i :: post)).unwritten =
        (s.firstUnwritten (pre.flatMap cells)).or (gather f (i :: post)).unwritten ∧
      ∀ c, (gather f (i :: post)).result = .error c → (gather f (pre ++ i :: post)).result = .error c := by
  induction pre with
  | nil => exact ⟨rfl, fun c h => h⟩
  | cons j pre ih =>
    obtain ⟨hunwritten, herror⟩ := ih fun k hk => hpre k (List.mem_cons_of_mem _ hk)
    rw [List.cons_append, gather, hpre j (by simp), andThen_ok, List.flatMap_cons, firstUnwritten_append,
      Option.or_assoc, ← hunwritten]
    constructor
    · dsimp only
      congr 1
      unfold Checked.andThen
      cases (gather f (pre ++ i :: post)).result <;> simp
    · exact fun c h => andThen_error_iff.2 (.inl (herror c h))

/-! ### The checks of CONFIGURE (44_control.md R156) -/

theorem two_le_of_primePower {q : Nat} (h : ∃ p k, Nat.Prime p ∧ 1 ≤ k ∧ q = p ^ k) : 2 ≤ q := by
  obtain ⟨p, k, hp, hk, rfl⟩ := h
  exact hp.two_le.trans (Nat.le_self_pow (by omega) p)

/-- The field sizes that CONFIGURE refuses. -/
theorem badField_iff {q : Nat} : (q < 2 ∨ q > Config.maxQ ∨ isPrimePower q = false) ↔
    256 < q ∨ ¬ ∃ p k, Nat.Prime p ∧ 1 ≤ k ∧ q = p ^ k := by
  rw [← Bool.not_eq_true, isPrimePower_iff]
  constructor
  · rintro (h | h | h)
    · exact .inr fun hp => absurd (two_le_of_primePower hp) (by omega)
    · exact .inl h
    · exact .inr h
  · rintro (h | h)
    · exact .inr (.inl h)
    · exact .inr (.inr h)

section
variable {q n m d numAug alpha msel : Nat}

theorem configureNumbers_m (hm : m < 1) :
    configureNumbers q n m d numAug alpha msel = raise .augmentingLengthTooSmall := if_pos hm

theorem configureNumbers_n (hm : 1 ≤ m) (hn : n ≤ m) :
    configureNumbers q n m d numAug alpha msel = raise .augmentingCodewordLengthMismatch := by
  rw [configureNumbers, if_neg (by omega), if_pos hn]

theorem configureNumbers_d (hm : 1 ≤ m) (hn : m < n) (hd : d < 2) :
    configureNumbers q n m d numAug alpha msel = raise .divisorLengthTooSmall := by
  rw [configureNumbers, if_neg (by omega), if_neg (by omega), if_pos hd]

theorem configureNumbers_q (hm : 1 ≤ m) (hn : m < n) (hd : 2 ≤ d)
    (hq : 256 < q ∨ ¬ ∃ p k, Nat.Prime p ∧ 1 ≤ k ∧ q = p ^ k) :
    configureNumbers q n m d numAug alpha msel = raise .badFieldSize := by
  rw [configureNumbers, if_neg (by omega), if_neg (by omega), if_neg (by omega), if_pos (badField_iff.2 hq)]

/-- The numbers that pass the checks of the lengths' order and of the field size. -/
structure FieldLegal (q n m d : Nat) : Prop where
  m_pos : 1 ≤ m
  m_lt_n : m < n
  d_ge : 2 ≤ d
  q_le : q ≤ 256
  q_prime_power : ∃ p k, Nat.Prime p ∧ 1 ≤ k ∧ q = p ^ k

/-- The checks after that of the field size. -/
theorem configureNumbers_of_fieldLegal (h : FieldLegal q n m d) : configureNumbers q n m d numAug alpha msel =
    if alpha ≠ q ∨ msel ≠ 0 then raise .badSelectionMethod
    else if n > Config.maxLen ∨ d > Config.maxLen then raise .lengthOverflow
    else if numAug < 1 ∨ numAug > Config.maxN then raise .badSlotCount
    else done () := by
  obtain ⟨hm, hn, hd, hq, hp⟩ := h
  have hfield : ¬ (q < 2 ∨ q > Config.maxQ ∨ isPrimePower q = false) := by
    rw [badField_iff]
    exact not_or.2 ⟨by omega, not_not.2 hp⟩
  rw [configureNumbers, if_neg (by omega), if_neg (by omega), if_neg (by omega), if_neg hfield]

theorem configureNumbers_method (h : FieldLegal q n m d) (hmethod : alpha ≠ q ∨ msel ≠ 0) :
    configureNumbers q n m d numAug alpha msel = raise .badSelectionMethod := by
  rw [configureNumbers_of_fieldLegal h, if_pos hmethod]

theorem configureNumbers_overflow (h : FieldLegal q n m d) (ha : alpha = q) (hs : msel = 0) (hlen : 64 < n ∨ 64 < d) :
    configureNumbers q n m d numAug alpha msel = raise .lengthOverflow := by
  rw [configureNumbers_of_fieldLegal h, if_neg (by omega),
    if_pos (show n > Config.maxLen ∨ d > Config.maxLen from hlen)]

theorem configureNumbers_slots (h : FieldLegal q n m d) (ha : alpha = q) (hs : msel = 0) (hn : n ≤ 64) (hd : d ≤ 64)
    (hN : numAug < 1 ∨ 16 < numAug) : configureNumbers q n m d numAug alpha msel = raise .badSlotCount := by
  rw [configureNumbers_of_fieldLegal h, if_neg (by omega), if_neg (by simp only [Config.maxLen]; omega),
    if_pos (show numAug < 1 ∨ numAug > Config.maxN from hN)]

theorem configureNumbers_legal (h : FieldLegal q n m d) (ha : alpha = q) (hs : msel = 0) (hn : n ≤ 64) (hd : d ≤ 64)
    (hN : 1 ≤ numAug) (hN' : numAug ≤ 16) : configureNumbers q n m d numAug alpha msel = done () := by
  rw [configureNumbers_of_fieldLegal h, if_neg (by omega), if_neg (by simp only [Config.maxLen]; omega),
    if_neg (by simp only [Config.maxN]; omega)]

end

/-- A failing check on the staged numbers is the error of CONFIGURE. -/
theorem exec_configure_of_numbers {s : State} {c : ErrCode} (h : configureNumbers s.cfgField.toNat s.cfgCwlen.toNat
    s.cfgAuglen.toNat s.cfgDivlen.toNat s.cfgNaug.toNat s.cfgAlphabet.toNat s.cfgMetricSel.toNat = raise c) :
    exec .configure s = .next (s.failedWith c.code) := by
  have hrule : configureRule s = raise c := by
    unfold configureRule
    dsimp only
    rw [h, andThen_raise]
  rw [exec_eq_complete]
  exact congrArg (complete s) hrule

/-- Staged numbers that pass every check. -/
def NumbersPass (s : State) : Prop := configureNumbers s.cfgField.toNat s.cfgCwlen.toNat s.cfgAuglen.toNat
  s.cfgDivlen.toNat s.cfgNaug.toNat s.cfgAlphabet.toNat s.cfgMetricSel.toNat = done ()

theorem StagedLegal.numbersPass {s : State} (h : StagedLegal s) : NumbersPass s :=
  configureNumbers_legal ⟨h.m_pos, h.m_lt_n, h.d_ge, h.q_le, h.q_prime_power⟩ (by rw [h.alphabet])
    (by rw [h.metric_sel]; rfl) h.n_le h.d_le h.N_pos h.N_le

/-- The check of the staged augmenting word `x`. -/
def checkAug (s : State) (x : Nat) : Checked Word :=
  checkSyms s.cfgField.toNat s (CellArray.augStg x).base s.cfgAuglen.toNat

/-- The cells of the staged augmenting word `x`. -/
def augCells (s : State) (x : Nat) : List Nat := cellsFrom (CellArray.augStg x).base s.cfgAuglen.toNat

theorem stagedCells_eq (s : State) (x : Nat) : s.stagedCells x =
    cellsFrom CellArray.divisorStg.base s.cfgDivlen.toNat ++ (List.range x).flatMap (augCells s) := rfl

section
variable {s : State} (hnum : NumbersPass s)
include hnum

/-- CONFIGURE on numbers that pass: the divisor's cells first. -/
theorem configureRule_of_numbers : configureRule s =
    (checkSyms s.cfgField.toNat s CellArray.divisorStg.base s.cfgDivlen.toNat).andThen fun g =>
      (gather (checkAug s) (List.range s.cfgNaug.toNat)).andThen fun aug =>
        done (s.latchConfig g aug).resetRunning := by
  unfold configureRule
  dsimp only
  rw [show configureNumbers _ _ _ _ _ _ _ = done () from hnum, andThen_done]
  rfl

theorem configureRule_bad_divisor {j : Nat} (h : FirstBad s.cfgField.toNat s.stagedDivisor j) : configureRule s =
    ⟨s.firstUnwritten ((cellsFrom CellArray.divisorStg.base s.cfgDivlen.toNat).take (j + 1)),
      .error .symbolOutOfRange⟩ := by
  rw [configureRule_of_numbers hnum, checkSyms_bad h, andThen_error]

/-- CONFIGURE on a divisor in range goes on to the augmenting words. -/
theorem configureRule_of_divisor (h : ValidWord s.cfgField.toNat s.stagedDivisor) : configureRule s =
    (⟨s.firstUnwritten (cellsFrom CellArray.divisorStg.base s.cfgDivlen.toNat), .ok s.stagedDivisor⟩ :
      Checked Word).andThen fun g => (gather (checkAug s) (List.range s.cfgNaug.toNat)).andThen fun aug =>
        done (s.latchConfig g aug).resetRunning := by
  rw [configureRule_of_numbers hnum, checkSyms_valid h]
  rfl

theorem configureRule_bad_aug (h : ValidWord s.cfgField.toNat s.stagedDivisor) {x j : Nat} (hx : x < s.cfgNaug.toNat)
    (hbefore : ∀ y, y < x → ValidWord s.cfgField.toNat (s.stagedAug y))
    (hbad : FirstBad s.cfgField.toNat (s.stagedAug x) j) : configureRule s =
      ⟨s.firstUnwritten (s.stagedCells x ++ (augCells s x).take (j + 1)), .error .symbolOutOfRange⟩ := by
  have hpre : ∀ y ∈ List.range x, checkAug s y = ⟨s.firstUnwritten (augCells s y), .ok (s.stagedAug y)⟩ :=
    fun y hy => checkSyms_valid (hbefore y (List.mem_range.1 hy))
  have hat (post : List Nat) : gather (checkAug s) (x :: post) =
      ⟨s.firstUnwritten ((augCells s x).take (j + 1)), .error .symbolOutOfRange⟩ := by
    rw [gather, show checkAug s x = _ from checkSyms_bad hbad, andThen_error]
    rfl
  obtain ⟨hunwritten, herror⟩ := gather_append_cons (i := x)
    (post := List.range' (x + 1) (s.cfgNaug.toNat - x - 1)) hpre
  rw [hat] at hunwritten herror
  have hgather : gather (checkAug s) (List.range s.cfgNaug.toNat) = ⟨s.firstUnwritten
      ((List.range x).flatMap (augCells s) ++ (augCells s x).take (j + 1)), .error .symbolOutOfRange⟩ := by
    rw [range_split hx, firstUnwritten_append, ← hunwritten, ← herror _ rfl]
  rw [configureRule_of_divisor hnum h, andThen_ok, hgather, andThen_error, stagedCells_eq, List.append_assoc,
    firstUnwritten_append s (cellsFrom _ _)]

theorem configureRule_valid (h : ValidWord s.cfgField.toNat s.stagedDivisor)
    (haug : ∀ x, x < s.cfgNaug.toNat → ValidWord s.cfgField.toNat (s.stagedAug x)) : configureRule s =
      ⟨s.firstUnwritten (s.stagedCells s.cfgNaug.toNat),
        .ok (s.latchConfig s.stagedDivisor ((List.range s.cfgNaug.toNat).map s.stagedAug)).resetRunning⟩ := by
  have hall : ∀ x ∈ List.range s.cfgNaug.toNat,
      checkAug s x = ⟨s.firstUnwritten (augCells s x), .ok (s.stagedAug x)⟩ :=
    fun x hx => checkSyms_valid (haug x (List.mem_range.1 hx))
  rw [configureRule_of_divisor hnum h, andThen_ok, gather_eq hall, andThen_ok, stagedCells_eq, firstUnwritten_append]
  simp

end

end Sys2Proof.Machine
end

section
/-! PROOFS. The obligations on the errors that the commands report (60_exceptions.md R172). -/

namespace Sys2Proof.Machine

/-- Settles O26: WADD and WMUL run one rule, which checks the lengths and then the two source registers. -/
theorem elementwiseCommandsReportTheirErrors : Obligations.ElementwiseCommandsReportTheirErrors := by
  intro s rd rs1 rs2 j hv
  simp only [exec_of_valid _ hv, bodyRule]
  refine ⟨fun hlen => ?_, fun hlen => ⟨fun hbad => ?_, fun hvalid hbad => ?_⟩⟩
  · simp only [elementwise_of_length_ne _ hlen, complete_raise_eq]
    exact ⟨rfl, rfl⟩
  · simp only [elementwise_bad_first _ hlen hbad, complete_error_reading]
    exact ⟨rfl, rfl⟩
  · simp only [elementwise_bad_second _ hlen hvalid hbad, complete_error_reading]
    exact ⟨rfl, rfl⟩

/-- Settles O27. -/
theorem pmulReportsItsErrors : Obligations.PmulReportsItsErrors := by
  intro s rd rs1 rs2 j hv
  simp only [exec_of_valid _ hv, bodyRule, pmulRule]
  refine ⟨fun hempty => ?_, fun h1 h2 hover => ?_, fun h1 h2 hfit => ?_⟩
  · rw [if_pos hempty]
    rfl
  · rw [if_neg (by omega), if_pos (show _ > Config.maxLen from hover)]
    rfl
  · rw [if_neg (by omega), if_neg (by simp only [Config.maxLen]; omega)]
    refine ⟨fun hbad => ?_, fun hvalid hbad => ?_⟩
    · rw [operand_andThen_bad _ hbad, complete_error_reading]
      rfl
    · rw [operands_bad_second _ hvalid hbad, complete_error_reading]
      rfl

/-- Settles O28. -/
theorem pdivmodReportsItsErrors : Obligations.PdivmodReportsItsErrors := by
  intro s rd rd2 rs1 rs2 j hv
  simp only [exec_of_valid _ hv, bodyRule, pdivmodRule]
  refine ⟨fun hconflict => ?_, fun hne hempty => ?_, fun hne hlen => ?_⟩
  · rw [if_pos hconflict]
    rfl
  · rw [if_neg hne, if_pos hempty]
    rfl
  · rw [if_neg hne, if_neg (by omega)]
    refine ⟨fun hbad => ?_, fun hvalid hbad => ?_, fun hvalid1 hvalid2 hunit => ?_⟩
    · rw [operand_andThen_bad _ hbad, complete_error_reading]
      rfl
    · rw [operands_bad_second _ hvalid hbad, complete_error_reading]
      rfl
    · rw [operands_valid _ rfl rfl hvalid1 hvalid2, if_neg (by simpa [unitq] using hunit), raise_unwritten,
        raise_result, Option.or_none, complete_error_reading]
      rfl

/-- Settles O35: the slot is checked first, and the three commands then check the same payload. -/
theorem scramblingCommandsReportTheirErrors : Obligations.ScramblingCommandsReportTheirErrors := by
  intro s rd rs1 slot j hv
  simp only [exec_of_valid _ hv, bodyRule]
  refine ⟨fun hslot => ?_, fun hlen => ?_, fun hlen hbad => ?_⟩
  · rw [scrambleRule, if_pos hslot]
    rfl
  · obtain ⟨hscramble, hcand, hencode⟩ := scrambling_of_payload_error (rd := rd) (slot := slot)
      (payload_of_length_ne hlen)
    refine ⟨fun hslot => ?_, ?_, ?_⟩
    · rw [hscramble hslot]; rfl
    · rw [hcand]; rfl
    · rw [hencode]; rfl
  · obtain ⟨hscramble, hcand, hencode⟩ := scrambling_of_payload_error (rd := rd) (slot := slot) (payload_bad hlen hbad)
    refine ⟨fun hslot => ?_, ?_, ?_⟩
    · rw [hscramble hslot, complete_error_reading]; rfl
    · rw [hcand, complete_error_reading]; rfl
    · rw [hencode, complete_error_reading]; rfl

/-- Settles O41. -/
theorem selectAndCommitReportTheirErrors : Obligations.SelectAndCommitReportTheirErrors := by
  intro s rd hv
  simp only [exec_of_valid _ hv, bodyRule]
  refine ⟨fun hcand => ?_, fun hsel => ?_⟩
  · rw [selectRule, if_neg (by simp [hcand])]
    rfl
  · rw [commitRule, if_neg (by simp [hsel])]
    rfl

/-- Settles O43. -/
theorem decodeReportsItsErrors : Obligations.DecodeReportsItsErrors := by
  intro s rd rs1 j hv
  simp only [exec_of_valid _ hv, bodyRule, decodeRule]
  refine ⟨fun hlen => ?_, fun hlen => ⟨fun hbad => ?_, fun hvalid hunit => ?_⟩⟩
  · rw [if_pos hlen]
    rfl
  · rw [if_neg (not_not.2 hlen), operand_andThen_bad _ hbad, complete_error_reading]
    rfl
  · rw [if_neg (not_not.2 hlen), operand_valid hvalid, andThen_ok, if_neg (by simpa [unitq] using hunit),
      raise_unwritten, raise_result, Option.or_none, complete_error_reading]
    rfl

/-- Settles O21: each clause by the branch of the rule that its check takes. -/
theorem configureReportsTheFirstFailingCheck : Obligations.ConfigureReportsTheFirstFailingCheck := by
  rintro s q n m d numAug rfl rfl rfl rfl rfl
  refine ⟨fun hm => exec_configure_of_numbers (configureNumbers_m hm),
    fun hm hn => exec_configure_of_numbers (configureNumbers_n hm hn),
    fun hm hn hd => exec_configure_of_numbers (configureNumbers_d hm hn hd),
    fun hm hn hd hq => exec_configure_of_numbers (configureNumbers_q hm hn hd hq), fun hm hn hd hq hp => ?_⟩
  have hfield : FieldLegal s.cfgField.toNat s.cfgCwlen.toNat s.cfgAuglen.toNat s.cfgDivlen.toNat :=
    ⟨hm, hn, hd, hq, hp⟩
  have hzero : s.cfgMetricSel ≠ 0 → s.cfgMetricSel.toNat ≠ 0 := fun h h0 => h (BitVec.eq_of_toNat_eq h0)
  refine ⟨fun hmethod => exec_configure_of_numbers (configureNumbers_method hfield (hmethod.imp_right hzero)),
    fun halpha hmsel => ?_⟩
  have hmsel' : s.cfgMetricSel.toNat = 0 := by rw [hmsel]; rfl
  refine ⟨fun hlen => exec_configure_of_numbers (configureNumbers_overflow hfield halpha hmsel' hlen),
    fun hn' hd' hN => exec_configure_of_numbers (configureNumbers_slots hfield halpha hmsel' hn' hd' hN),
    fun hn' hd' hN hN' => ?_⟩
  have hnum : NumbersPass s := configureNumbers_legal hfield halpha hmsel' hn' hd' hN hN'
  rw [exec_eq_complete]
  refine ⟨fun j hbad => ?_, fun hvalid x j hx hbefore hbad => ?_⟩
  · exact (congrArg (complete s) (configureRule_bad_divisor hnum hbad)).trans (complete_error_reading _ _ _)
  · exact (congrArg (complete s) (configureRule_bad_aug hnum hvalid hx hbefore hbad)).trans
      (complete_error_reading _ _ _)

/-- Settles O20: every check passes, so the rule latches what it read and resets the running state. -/
theorem configureLatchesTheStaging : Obligations.ConfigureLatchesTheStaging := by
  intro s hlegal hdiv haug
  have hexec := exec_of_rule_ok (i := .configure) (configureRule_valid hlegal.numbersPass hdiv haug)
  refine ⟨_, hexec, fun x k hx hk => s.mem.read_clearCarries_carryCell rfl hx hk,
    fun k hk => s.mem.read_clearCarries_carryCell rfl (by decide) hk,
    fun a hother ha => s.mem.read_clearCarries_other hother ha, ?_⟩
  have hmetric : s.cfgMetricSel.toNat = 0 := by rw [hlegal.metric_sel]; rfl
  simp only [endedReading, State.resetRunning, State.latchConfig, State.succeed, hmetric]

end Sys2Proof.Machine
end

section
/-! SUPPORT. Commands that come upon a never-written cell, and the commands that write a register. -/

namespace Sys2Proof.Machine

/-! ### The record of the model fault (60_exceptions.md R177 (a)) -/

/-- A command whose rule reads a never-written cell records it. -/
theorem recordsFault_of_unwritten {i : Instr} {s : State} {a : Nat} (h : (commandRule i s).unwritten = some a) :
    RecordsFault i s a := by
  unfold RecordsFault
  rw [exec_eq_complete]
  refine complete_records h fun u hu => ?_
  have hkeep := bodyRule_keepsInterface (bodyRule_ok_of_commandRule hu)
  unfold KeepsInterface at hkeep
  rw [hkeep]
  exact ⟨rfl, rfl⟩

theorem recordsFault_of_body {i : Instr} {s : State} {a : Nat} (hv : s.cfgValid = true)
    (h : (bodyRule s i).unwritten = some a) : RecordsFault i s a :=
  recordsFault_of_unwritten (by rwa [commandRule_of_valid i hv])

section
variable {s : State} {rd rd2 rs1 rs2 k : Nat}

/-- A source register with a gap is read up to it. -/
theorem operand_gap (h : FirstGap s s.active.q (CellArray.wsym rs1).base (s.len rs1) k) :
    (s.operand rs1).unwritten = some ((CellArray.wsym rs1).addr k) := checkSyms_gap h

theorem operand_written (h : WrittenWord s s.active.q (CellArray.wsym rs1).base (s.len rs1)) :
    s.operand rs1 = done (s.seenReg rs1) := checkSyms_written h

/-- A rule that reads two source registers comes upon the first gap in check order. -/
theorem operands_gap {α : Type} (f : Word → Word → Checked α)
    (h : FirstGap s s.active.q (CellArray.wsym rs1).base (s.len rs1) k) :
    ((s.operand rs1).andThen fun a => (s.operand rs2).andThen fun b => f a b).unwritten =
      some ((CellArray.wsym rs1).addr k) := andThen_unwritten_of_some (operand_gap h)

theorem operands_gap_second {α : Type} (f : Word → Word → Checked α)
    (h1 : WrittenWord s s.active.q (CellArray.wsym rs1).base (s.len rs1))
    (h2 : FirstGap s s.active.q (CellArray.wsym rs2).base (s.len rs2) k) :
    ((s.operand rs1).andThen fun a => (s.operand rs2).andThen fun b => f a b).unwritten =
      some ((CellArray.wsym rs2).addr k) := by
  rw [operand_written h1, andThen_done]
  exact andThen_unwritten_of_some (operand_gap h2)

theorem elementwise_reads (op : Nat → Nat → Nat → Nat) (hlen : s.len rs1 = s.len rs2) :
    elementwise op rd rs1 rs2 s = (s.operand rs1).andThen fun a => (s.operand rs2).andThen fun b =>
      done (s.setReg rd (List.zipWith (op s.active.q) a b)) := if_neg (not_not.2 hlen)

theorem pmulRule_reads (h1 : 1 ≤ s.len rs1) (h2 : 1 ≤ s.len rs2) (hfit : s.len rs1 + s.len rs2 - 1 ≤ 64) :
    pmulRule rd rs1 rs2 s = (s.operand rs1).andThen fun a => (s.operand rs2).andThen fun b =>
      done (s.setReg rd (pmulf s.active.q a b)) := by
  rw [pmulRule, if_neg (by omega), if_neg (by simp only [Config.maxLen]; omega)]

theorem pdivmodRule_reads (hne : rd ≠ rd2) (h2 : 1 ≤ s.len rs2) :
    pdivmodRule rd rd2 rs1 rs2 s = (s.operand rs1).andThen fun a => (s.operand rs2).andThen fun b =>
      if unitq s.active.q (b.getD 0 0) then
        done ((s.setReg rd (divmodf s.active.q a b).1).setReg rd2 (divmodf s.active.q a b).2)
      else raise .fieldValidity := by
  rw [pdivmodRule, if_neg hne, if_neg (by omega)]

theorem payload_reads (hlen : s.len rs1 = s.active.n - s.active.m) : payload rs1 s = s.operand rs1 :=
  if_neg (not_not.2 hlen)

theorem candidatesRule_gap (hlen : s.len rs1 = s.active.n - s.active.m)
    (h : FirstGap s s.active.q (CellArray.wsym rs1).base (s.len rs1) k) :
    (candidatesRule rs1 s).unwritten = some ((CellArray.wsym rs1).addr k) :=
  andThen_unwritten_of_some (by rw [payload_reads hlen, operand_gap h])

end

/-- CONFIGURE comes upon a gap of the staged augmenting word `x` when the divisor and the words before `x` are
written. -/
theorem configureRule_gap_aug {s : State} (hnum : NumbersPass s) {x k : Nat}
    (hdiv : WrittenWord s s.cfgField.toNat CellArray.divisorStg.base s.cfgDivlen.toNat) (hx : x < s.cfgNaug.toNat)
    (hbefore : ∀ y, y < x → WrittenWord s s.cfgField.toNat (CellArray.augStg y).base s.cfgAuglen.toNat)
    (hgap : FirstGap s s.cfgField.toNat (CellArray.augStg x).base s.cfgAuglen.toNat k) :
    (configureRule s).unwritten = some ((CellArray.augStg x).addr k) := by
  have hpre : ∀ y ∈ List.range x, checkAug s y = ⟨s.firstUnwritten [], .ok (s.stagedAug y)⟩ :=
    fun y hy => checkSyms_written (hbefore y (List.mem_range.1 hy))
  obtain ⟨hunwritten, -⟩ := gather_append_cons (i := x) (post := List.range' (x + 1) (s.cfgNaug.toNat - x - 1)) hpre
  have hat : (gather (checkAug s) (x :: List.range' (x + 1) (s.cfgNaug.toNat - x - 1))).unwritten =
      some ((CellArray.augStg x).addr k) := andThen_unwritten_of_some (checkSyms_gap hgap)
  rw [configureRule_of_numbers hnum, checkSyms_written hdiv, andThen_done]
  refine andThen_unwritten_of_some ?_
  rw [range_split hx, hunwritten, hat, List.flatMap_eq_nil_iff.2 fun _ _ => rfl]
  rfl

/-! ### The commands that write a register (40_word.md R101) -/

theorem Inv.q_le {s : State} (h : Inv s) (hv : s.cfgValid = true) : s.active.q ≤ 256 := (h.cfg_ok hv).q_le

theorem Inv.q_pos {s : State} (h : Inv s) (hv : s.cfgValid = true) : 0 < s.active.q := by
  have := (h.cfg_ok hv).q_ge
  omega

/-- Writing a register has the frame of the register commands. -/
theorem wroteReg_setReg (s : State) {rd : Nat} {w : Word} (cells : List Nat) (hrd : rd < 16) (hw : ∀ x ∈ w, x < 256) :
    WroteReg s (endedReading s (s.setReg rd w) cells) rd w cells where
  value := regWord_setReg_same s w hrd hw
  others _ hi := (len_setReg s w hrd).trans (if_neg hi)
  memory a ha := read_setReg_outside s rd w a ha
  rest := rfl

/-- A body that reads two source registers in range and writes a register. -/
theorem exec_two_operands {s : State} {i : Instr} {rd rs1 rs2 : Nat} {a b : Word} {f : Word → Word → Word}
    (hv : s.cfgValid = true) (ha : Holds s rs1 a) (hb : Holds s rs2 b)
    (hbody : bodyRule s i = (s.operand rs1).andThen fun a => (s.operand rs2).andThen fun b =>
      done (s.setReg rd (f a b))) :
    exec i s = .next (endedReading s (s.setReg rd (f a b)) (s.regCells rs1 ++ s.regCells rs2)) :=
  exec_of_body_ok hv (by
    rw [hbody, operands_valid _ ha.value hb.value ha.valid hb.valid, done_unwritten, done_result, Option.or_none])

theorem zipWith_valid {q : Nat} {op : Nat → Nat → Nat} (hop : ∀ x y, op x y < q) (a b : Word) :
    ValidWord q (List.zipWith op a b) := by
  intro x hx
  obtain ⟨i, hi, rfl⟩ := List.getElem_of_mem hx
  rw [List.getElem_zipWith]
  exact hop _ _

/-- Under a valid configuration a word in range fits the symbol cells. -/
theorem Inv.fits {s : State} (h : Inv s) (hv : s.cfgValid = true) {w : Word} (hw : ValidWord s.active.q w) :
    ∀ x ∈ w, x < 256 := fun x hx => (hw x hx).trans_le (h.q_le hv)

/-- A product coefficient as the rule of PMUL computes it. -/
theorem pmulf_eq_map (q : Nat) (a b : Word) : pmulf q a b = (List.range (a.length + b.length - 1)).map fun k =>
    (∑ i ∈ Finset.range (k + 1), a.getD i 0 * b.getD (k - i) 0) % q := rfl

end Sys2Proof.Machine
end

section
/-! PROOFS. The record of the model faults (60_exceptions.md R177) and the Word family (40_word.md). -/

namespace Sys2Proof.Machine

/-- Settles O14: each rule, past its earlier checks, reads its cells in check order and comes upon the gap. -/
theorem unwrittenCellsAreRecorded : Obligations.UnwrittenCellsAreRecorded := by
  intro s rd rd2 rs1 rs2 slot k
  refine ⟨fun hv hgap => ?first, fun hv hwritten hgap => ?second, fun hlegal => ?staged⟩
  case first =>
    have hpos : 1 ≤ s.len rs1 := by have := hgap.inside; omega
    refine ⟨fun hlen => ⟨recordsFault_of_body hv ?_, recordsFault_of_body hv ?_⟩,
      fun h2 hfit => recordsFault_of_body hv ?_, fun h2 hne => recordsFault_of_body hv ?_,
      fun hlen => ⟨recordsFault_of_body hv (candidatesRule_gap hlen hgap),
        recordsFault_of_body hv (andThen_unwritten_of_some (candidatesRule_gap hlen hgap)),
        fun hslot => recordsFault_of_body hv ?_⟩, fun hlen => recordsFault_of_body hv ?_⟩
    · rw [bodyRule, elementwise_reads _ hlen, operands_gap _ hgap]
    · rw [bodyRule, elementwise_reads _ hlen, operands_gap _ hgap]
    · rw [bodyRule, pmulRule_reads hpos h2 hfit, operands_gap _ hgap]
    · rw [bodyRule, pdivmodRule_reads hne h2, operands_gap _ hgap]
    · rw [bodyRule, scrambleRule, if_neg (by omega), payload_reads hlen]
      exact andThen_unwritten_of_some (operand_gap hgap)
    · rw [bodyRule, decodeRule, if_neg (not_not.2 hlen)]
      exact andThen_unwritten_of_some (operand_gap hgap)
  case second =>
    have hpos : 1 ≤ s.len rs2 := by have := hgap.inside; omega
    refine ⟨fun hlen => ⟨recordsFault_of_body hv ?_, recordsFault_of_body hv ?_⟩,
      fun h1 hfit => recordsFault_of_body hv ?_, fun hne => recordsFault_of_body hv ?_⟩
    · rw [bodyRule, elementwise_reads _ hlen, operands_gap_second _ hwritten hgap]
    · rw [bodyRule, elementwise_reads _ hlen, operands_gap_second _ hwritten hgap]
    · rw [bodyRule, pmulRule_reads h1 hpos hfit, operands_gap_second _ hwritten hgap]
    · rw [bodyRule, pdivmodRule_reads hne hpos, operands_gap_second _ hwritten hgap]
  case staged =>
    have hnum := hlegal.numbersPass
    refine ⟨fun hgap => recordsFault_of_unwritten ?_, fun hdiv x hx hbefore hgap => recordsFault_of_unwritten ?_⟩
    · exact (congrArg Checked.unwritten (configureRule_of_numbers hnum)).trans
        (andThen_unwritten_of_some (checkSyms_gap hgap))
    · exact configureRule_gap_aug hnum hdiv hx hbefore hgap

/-- Settles O22. -/
theorem waddWritesTheElementwiseSum : Obligations.WaddWritesTheElementwiseSum := by
  intro s rd rs1 rs2 a b hinv hrd hv ha hb hlen
  refine ⟨_, exec_two_operands (f := List.zipWith (addq s.active.q)) hv ha hb
    (elementwise_reads addq (by rw [← ha.length, ← hb.length, hlen])), wroteReg_setReg s _ hrd ?_⟩
  exact hinv.fits hv (zipWith_valid (fun x y => addq_lt x y (hinv.q_pos hv)) a b)

/-- Settles O23. -/
theorem wmulWritesTheElementwiseProduct : Obligations.WmulWritesTheElementwiseProduct := by
  intro s rd rs1 rs2 a b hinv hrd hv ha hb hlen
  refine ⟨_, exec_two_operands (f := List.zipWith (mulq s.active.q)) hv ha hb
    (elementwise_reads mulq (by rw [← ha.length, ← hb.length, hlen])), wroteReg_setReg s _ hrd ?_⟩
  exact hinv.fits hv (zipWith_valid (fun x y => mulq_lt x y (hinv.q_pos hv)) a b)

/-- Settles O24. -/
theorem pmulWritesThePolynomialProduct : Obligations.PmulWritesThePolynomialProduct := by
  intro s rd rs1 rs2 a b hinv hrd hv ha hb h1 h2 hfit
  rw [ha.length] at h1 hfit
  rw [hb.length] at h2 hfit
  rw [← pmulf_eq_map]
  exact ⟨_, exec_two_operands (f := pmulf s.active.q) hv ha hb (pmulRule_reads h1 h2 hfit),
    wroteReg_setReg s _ hrd (hinv.fits hv (pmulf_lt a b (hinv.q_pos hv)))⟩

/-- Settles O25: the division identity gives the words, and the two registers are written one after the other. -/
theorem pdivmodWritesQuotientAndRemainder : Obligations.PdivmodWritesQuotientAndRemainder := by
  intro s rd rd2 rs1 rs2 a b hinv hrd hrd2 hne hv ha hb hblen hunit
  have hpos := hinv.q_pos hv
  have hq2 : 2 ≤ s.active.q := (hinv.cfg_ok hv).q_ge
  have hqlen := divmodf_quotient_length (q := s.active.q) a b hpos
  have hrlen := divmodf_remainder_length (q := s.active.q) a b hpos
  have hqlt := divmodf_quotient_lt (q := s.active.q) a b hpos
  have hrlt := divmodf_remainder_lt b hpos ha.valid
  have ha64 : a.length ≤ 64 := ha.length ▸ hinv.len_le rs1 ha.reg
  have hb64 : b.length ≤ 64 := hb.length ▸ hinv.len_le rs2 hb.reg
  have hbody : bodyRule s (.pdivmod rd rd2 rs1 rs2) = ⟨s.firstUnwritten (s.regCells rs1 ++ s.regCells rs2),
      .ok ((s.setReg rd (divmodf s.active.q a b).1).setReg rd2 (divmodf s.active.q a b).2)⟩ := by
    rw [bodyRule, pdivmodRule_reads hne (by rw [← hb.length]; exact hblen),
      operands_valid _ ha.value hb.value ha.valid hb.valid, if_pos (by simpa [unitq] using hunit), done_unwritten,
      done_result, Option.or_none]
  refine ⟨_, _, _, exec_of_body_ok hv hbody, ?_, regWord_setReg_same _ _ hrd2 (hinv.fits hv hrlt), hqlen, hrlen, hqlt, hrlt,
    polyOf_divmodf hq2 hblen hunit a, fun i hi hi2 => ?_, fun x hx hx2 => ?_, rfl⟩
  · have hlen : (s.setReg rd (divmodf s.active.q a b).1).len rd = (divmodf s.active.q a b).1.length := by
      rw [len_setReg s _ hrd, if_pos rfl]
    exact (regWord_setReg_other _ _ hrd2 hne (by omega) (by omega)).trans (regWord_setReg_same s _ hrd (hinv.fits hv hqlt))
  · exact (len_setReg _ _ hrd2).trans ((if_neg hi2).trans ((len_setReg s _ hrd).trans (if_neg hi)))
  · exact (read_setReg_outside _ _ _ _ hx2).trans (read_setReg_outside _ _ _ _ hx)

end Sys2Proof.Machine
end

section
/-! SUPPORT. Words stored to the symbol arrays: the address map apart, one array after another, and what is read after
it (20_memory.md R52). -/

namespace Sys2Proof.Machine

/-! ### The address map tells the cells apart -/

theorem locOf_addr {arr : CellArray} {k : Nat} (hx : arr.index < 16) (hk : k < 64) :
    locOf (BitVec.ofNat 16 (arr.addr k)).toNat = .cell arr k := by
  cases arr with
  | divisorStg => exact locOf_divisorStg hk
  | descRem => exact locOf_descRem hk
  | augStg x => exact locOf_augStg hx hk
  | wsym x => exact locOf_wsym hx hk
  | slotCarry x => exact locOf_slotCarry hx hk
  | cand x => exact locOf_cand hx hk

theorem addr_injective {arr arr' : CellArray} {j k : Nat} (hx : arr.index < 16) (hx' : arr'.index < 16) (hj : j < 64)
    (hk : k < 64) (h : arr.addr j = arr'.addr k) : arr = arr' ∧ j = k := by
  have hloc := locOf_addr hx hj
  rw [h, locOf_addr hx' hk] at hloc
  injection hloc with harr hindex
  exact ⟨harr.symm, hindex.symm⟩

theorem isCellAddr_addr {arr : CellArray} {k : Nat} (hx : arr.index < 16) (hk : k < 64) :
    isCellAddr (arr.addr k) = true := by
  simp only [isCellAddr, Bool.and_eq_true, Bool.or_eq_true, decide_eq_true_eq, beq_iff_eq]
  cases arr <;> simp only [CellArray.index, CellArray.addr, CellArray.base] at hx ⊢ <;> omega

/-- A cell of one array is not stored in another. -/
theorem not_storedIn_of_ne {arr arr' : CellArray} {n k : Nat} (hx : arr.index < 16) (hx' : arr'.index < 16)
    (hn : n ≤ 64) (hk : k < 64) (hne : arr ≠ arr') : ¬ StoredIn arr n (arr'.addr k) := by
  rintro ⟨j, hj, h⟩
  exact hne (addr_injective hx' hx hk (by omega) h).1.symm

/-! ### A stored word -/

/-- Storing a word in an array leaves every address outside its cells. -/
theorem read_storeWord_of_not_storedIn (m : Memory) {arr : CellArray} {w : Word} {a : Nat}
    (h : ¬ StoredIn arr w.length a) : (storeWord m arr.base w).read a = m.read a :=
  read_storeWord_outside _ _ _ _ fun j hj e => h ⟨j, hj, e⟩

/-- A word of symbols that fit is read back from the cells of its array. -/
theorem loadCarry_eq_of_read {m : Memory} {arr : CellArray} {w : Word} (hw : ∀ x ∈ w, x < 256)
    (h : ∀ j, j < w.length → m.read (arr.addr j) = some (BitVec.ofNat 8 (w.getD j 0))) :
    loadCarry m arr w.length = w := by
  refine (eq_map_range rfl fun j hj => ?_).symm
  rw [h j hj, Option.getD_some, BitVec.toNat_ofNat, List.getD_eq_getElem _ _ hj]
  exact (Nat.mod_eq_of_lt (hw _ (List.getElem_mem hj))).symm

theorem loadCarry_congr {m m' : Memory} {arr : CellArray} {k : Nat}
    (h : ∀ j, j < k → m'.read (arr.addr j) = m.read (arr.addr j)) : loadCarry m' arr k = loadCarry m arr k :=
  List.map_congr_left fun j hj => by rw [h j (List.mem_range.1 hj)]

/-- A word is what its cells hold. -/
theorem readWord_eq_of_read {m : Memory} {a : Nat} {w : Word} (hw : ∀ x ∈ w, x < 256)
    (h : ∀ j, j < w.length → m.read (a + 4 * j) = some (BitVec.ofNat 8 (w.getD j 0))) :
    readWord m a w.length = some w := by
  rw [← readWord_storeWord m a w hw]
  exact readWord_congr _ fun j hj => by rw [h j hj, read_storeWord_inside m a w j hj]

/-! ### Several words stored one after another -/

/-- Store words to arrays, one after another. -/
def storeAll (m : Memory) : List (CellArray × Word) → Memory
  | [] => m
  | e :: l => storeAll (storeWord m e.1.base e.2) l

theorem storeAll_append (m : Memory) (l l' : List (CellArray × Word)) :
    storeAll m (l ++ l') = storeAll (storeAll m l) l' := by
  induction l generalizing m with
  | nil => rfl
  | cons e l ih => exact ih _

/-- An address in none of the stored arrays keeps its cell. -/
theorem read_storeAll_outside {m : Memory} {l : List (CellArray × Word)} {a : Nat}
    (h : ∀ e ∈ l, ¬ StoredIn e.1 e.2.length a) : (storeAll m l).read a = m.read a := by
  induction l generalizing m with
  | nil => rfl
  | cons e l ih =>
    rw [storeAll, ih fun e' he' => h e' (List.mem_cons_of_mem _ he'),
      read_storeWord_of_not_storedIn m (h e (by simp))]

/-- The arrays of the map, and words that fit them. -/
def StoresFit (l : List (CellArray × Word)) : Prop := ∀ e ∈ l, e.1.index < 16 ∧ e.2.length ≤ 64

/-- Each of several words stored to different arrays stands in its cells. -/
theorem read_storeAll_inside {m : Memory} {l : List (CellArray × Word)} {arr : CellArray} {w : Word} {j : Nat}
    (hfit : StoresFit l) (hnodup : (l.map Prod.fst).Nodup) (hmem : (arr, w) ∈ l) (hj : j < w.length) :
    (storeAll m l).read (arr.addr j) = some (BitVec.ofNat 8 (w.getD j 0)) := by
  induction l generalizing m with
  | nil => cases hmem
  | cons e l ih =>
    rw [List.map_cons, List.nodup_cons] at hnodup
    obtain ⟨hnotin, hnodup⟩ := hnodup
    have hfit' : StoresFit l := fun e' he' => hfit e' (List.mem_cons_of_mem _ he')
    obtain rfl | hmem := List.mem_cons.1 hmem
    · obtain ⟨hx, hw⟩ := hfit (arr, w) (by simp)
      rw [storeAll, read_storeAll_outside]
      · exact read_storeWord_inside m arr.base w j hj
      · intro e' he'
        obtain ⟨hx', hw'⟩ := hfit' e' he'
        refine not_storedIn_of_ne hx' hx hw' (hj.trans_le hw) fun heq => hnotin ?_
        exact List.mem_map.2 ⟨e', he', heq⟩
    · exact ih hfit' hnodup hmem

end Sys2Proof.Machine
end

section
/-! SUPPORT. The scrambler array, the Analyzer and the Descrambler on checked operands: the words they compute and the
state they leave. -/

namespace Sys2Proof.Machine

/-! ### The words of the scrambler and the descrambler -/

section
variable {s : State} {p : Word} {slot : Nat} (hcfg : CfgOk s.active)
include hcfg

theorem augWord_spec (hslot : slot < s.active.N) :
    (s.augWord slot).length = s.active.m ∧ ValidWord s.active.q (s.augWord slot) := by
  have hlt : slot < s.active.aug.length := by rw [hcfg.aug_len]; exact hslot
  rw [State.augWord, List.getD_eq_getElem _ _ hlt]
  exact hcfg.aug_words _ (List.getElem_mem hlt)

/-- The dividend of a slot: its augmenting word before the payload. -/
theorem augmented_spec (hslot : slot < s.active.N) (hlen : p.length = s.active.n - s.active.m)
    (hp : ValidWord s.active.q p) :
    (s.augWord slot ++ p).length = s.active.n ∧ ValidWord s.active.q (s.augWord slot ++ p) := by
  obtain ⟨hauglen, haug⟩ := augWord_spec hcfg hslot
  have := hcfg.m_lt_n
  exact ⟨by rw [List.length_append]; omega, fun x hx => (List.mem_append.1 hx).elim (haug x) (hp x)⟩

theorem scramble_codeword (hslot : slot < s.active.N) (hlen : p.length = s.active.n - s.active.m)
    (hp : ValidWord s.active.q p) :
    (s.scramble p slot).1.length = s.active.n ∧ ValidWord s.active.q (s.scramble p slot).1 := by
  have := hcfg.d_ge
  have := hcfg.q_ge
  exact ⟨scr_codeword_length (augmented_spec hcfg hslot hlen hp).1 (by rw [hcfg.g_len]; omega),
    scr_codeword_lt (by omega)⟩

theorem scramble_carry (hcont : s.active.cont = true) (hslot : slot < s.active.N)
    (hlen : p.length = s.active.n - s.active.m) (hp : ValidWord s.active.q p) :
    (s.scramble p slot).2.length = s.active.d - 1 ∧ ValidWord s.active.q (s.scramble p slot).2 := by
  have := hcfg.d_ge
  have := hcfg.q_ge
  rw [State.scramble, hcont]
  exact scr_carry (by omega) (augmented_spec hcfg hslot hlen hp).1 hcfg.g_len (by omega)

theorem descramble_payload {c : Word} (hlen : c.length = s.active.n) :
    (s.descramble c).1.length = s.active.n - s.active.m ∧ ValidWord s.active.q (s.descramble c).1 := by
  have := hcfg.d_ge
  have := hcfg.q_ge
  have hq := divmodf_quotient_length (q := s.active.q) (dscDividend s.active.q s.active.d s.active.cont c s.descRem)
    s.active.g (by omega)
  rw [dscDividend_length, hcfg.g_len] at hq
  rw [State.descramble, dsc_eq]
  refine ⟨by rw [List.length_drop, List.length_take]; omega, fun x hx => ?_⟩
  exact divmodf_quotient_lt _ _ (by omega) x (List.mem_of_mem_take (List.mem_of_mem_drop hx))

theorem descramble_remainder {c : Word} (hcont : s.active.cont = true) (hc : ValidWord s.active.q c) :
    (s.descramble c).2.length = s.active.d - 1 ∧ ValidWord s.active.q (s.descramble c).2 := by
  have hpos : 0 < s.active.q := by have := hcfg.q_ge; omega
  rw [State.descramble, dsc_eq, hcont]
  exact ⟨by rw [if_pos rfl, divmodf_remainder_length _ _ hpos, hcfg.g_len],
    divmodf_remainder_lt _ hpos (dscDividend_valid hpos _ _ _ hc)⟩

end

/-! ### A register and, in continuous mode, a carry -/

/-- `W[rd] <- w` and, in continuous mode, the word `r` to the cells of a carry: what SCRAMBLE and DECODE leave. -/
def State.setRegCarry (s : State) (rd : Nat) (w : Word) (arr : CellArray) (r : Word) : State :=
  if s.active.cont then (s.setReg rd w).setCells arr r else s.setReg rd w

section
variable (s : State) {rd : Nat} {w r : Word} {arr : CellArray}

/-- The words that are stored, in their order. -/
theorem setRegCarry_mem : (s.setRegCarry rd w arr r).mem =
    storeAll s.mem ((.wsym rd, w) :: if s.active.cont then [(arr, r)] else []) := by
  unfold State.setRegCarry
  split <;> rfl

theorem setRegCarry_eq : s.setRegCarry rd w arr r =
    { s with mem := (s.setRegCarry rd w arr r).mem, wlen := s.wlen.setIfInBounds rd w.length } := by
  unfold State.setRegCarry
  split <;> rfl

theorem setRegCarry_active : (s.setRegCarry rd w arr r).active = s.active := by rw [setRegCarry_eq]

theorem len_setRegCarry {i : Nat} (hrd : rd < 16) :
    (s.setRegCarry rd w arr r).len i = if i = rd then w.length else s.len i := by
  rw [← len_setReg s w hrd, setRegCarry_eq]
  rfl

/-- An address outside the stored words keeps its cell. -/
theorem read_setRegCarry_outside {a : Nat} (hw : ¬ StoredIn (.wsym rd) w.length a)
    (hr : ¬ (s.active.cont = true ∧ StoredIn arr r.length a)) :
    (s.setRegCarry rd w arr r).mem.read a = s.mem.read a := by
  rw [setRegCarry_mem]
  refine read_storeAll_outside fun e he => ?_
  obtain rfl | he := List.mem_cons.1 he
  · exact hw
  · split at he
    · rename_i hcont
      rw [List.mem_singleton.1 he]
      exact fun h => hr ⟨hcont, h⟩
    · cases he

variable (hrd : rd < 16) (hw : w.length ≤ 64) (hx : arr.index < 16) (harr : arr.isCarry = true)
  (hr : s.active.cont = true → r.length ≤ 64)
include hrd hw hx harr hr

omit harr in
theorem setRegCarry_fit : StoresFit ((.wsym rd, w) :: if s.active.cont then [(arr, r)] else []) := by
  intro e he
  obtain rfl | he := List.mem_cons.1 he
  · exact ⟨hrd, hw⟩
  · split at he
    · rename_i hcont
      rw [List.mem_singleton.1 he]
      exact ⟨hx, hr hcont⟩
    · cases he

omit hrd hw hx hr in
theorem setRegCarry_nodup :
    ((((CellArray.wsym rd, w) :: if s.active.cont then [(arr, r)] else []) : List (CellArray × Word)).map
      Prod.fst).Nodup := by
  have hne : CellArray.wsym rd ≠ arr := by rintro rfl; cases harr
  split <;> simp [hne]

theorem regWord_setRegCarry (hb : ∀ x ∈ w, x < 256) : (s.setRegCarry rd w arr r).regWord rd = some w := by
  unfold State.regWord
  rw [len_setRegCarry s hrd, if_pos rfl]
  refine readWord_eq_of_read hb fun j hj => ?_
  rw [setRegCarry_mem]
  exact read_storeAll_inside (setRegCarry_fit s hrd hw hx hr) (setRegCarry_nodup s harr)
    List.mem_cons_self hj

/-- The carry that was written holds its word, and every other carry is as before. -/
theorem loadCarry_setRegCarry {arr' : CellArray} {k : Nat} (hx' : arr'.index < 16) (harr' : arr'.isCarry = true)
    (hk : k ≤ 64) (hrk : s.active.cont = true → r.length = k)
    (hb : s.active.cont = true → ∀ x ∈ r, x < 256) :
    loadCarry (s.setRegCarry rd w arr r).mem arr' k =
      if s.active.cont = true ∧ arr' = arr then r else loadCarry s.mem arr' k := by
  split
  · rename_i h
    obtain ⟨hcont, rfl⟩ := h
    rw [← hrk hcont]
    refine loadCarry_eq_of_read (hb hcont) fun j hj => ?_
    rw [setRegCarry_mem]
    exact read_storeAll_inside (setRegCarry_fit s hrd hw hx hr) (setRegCarry_nodup s harr)
      (by simp [hcont]) hj
  · rename_i h
    refine loadCarry_congr fun j hj => read_setRegCarry_outside s ?_ ?_
    · exact not_storedIn_of_ne hrd hx' hw (by omega) (by rintro rfl; cases harr')
    · rintro ⟨hcont, hin⟩
      exact not_storedIn_of_ne hx hx' (hr hcont) (by omega) (fun e => h ⟨hcont, e.symm⟩) hin

end

/-- The rule of SCRAMBLE on a checked payload. -/
theorem bodyRule_scramble {s : State} {rd rs1 slot : Nat} {p : Word} (hslot : slot < s.active.N) (hp : Holds s rs1 p)
    (hlen : p.length = s.active.n - s.active.m) : bodyRule s (.scramble rd rs1 slot) =
      ⟨s.firstUnwritten (s.regCells rs1),
        .ok (s.setRegCarry rd (s.scramble p slot).1 (.slotCarry slot) (s.scramble p slot).2)⟩ := by
  rw [bodyRule, scrambleRule, if_neg (by omega), payload_reads (hp.length ▸ hlen), operand_holds hp, andThen_ok,
    done_unwritten, done_result, Option.or_none]
  rfl

/-- The rule of DECODE on a checked codeword. -/
theorem bodyRule_decode {s : State} {rd rs1 : Nat} {c : Word} (hc : Holds s rs1 c) (hlen : c.length = s.active.n)
    (hunit : Nat.gcd (s.active.g.getD 0 0) s.active.q = 1) : bodyRule s (.decode rd rs1) =
      ⟨s.firstUnwritten (s.regCells rs1),
        .ok (s.setRegCarry rd (s.descramble c).1 .descRem (s.descramble c).2)⟩ := by
  rw [bodyRule, decodeRule, if_neg (not_not.2 (hc.length ▸ hlen)), operand_holds hc, andThen_ok,
    if_pos (by simpa [unitq] using hunit), done_unwritten, done_result, Option.or_none]
  rfl

end Sys2Proof.Machine
end

section
/-! PROOFS. SCRAMBLE and DECODE on checked operands (41_scrambler.md R122, 43_descrambler.md R146). -/

namespace Sys2Proof.Machine

/-- Settles O33. -/
theorem scrambleRunsOneSlot : Obligations.ScrambleRunsOneSlot := by
  intro s rd rs1 slot p c c' hinv hrd hv hp hslot hlen hscr
  have hcfg := hinv.cfg_ok hv
  have hn := hcfg.n_le
  have hd := hcfg.d_le
  have hN := hcfg.N_le
  obtain ⟨hclen, hcv⟩ := scramble_codeword hcfg hslot hlen hp.valid
  have hcarry (hcont : s.active.cont = true) := scramble_carry hcfg hcont hslot hlen hp.valid
  have hexec := exec_of_body_ok hv (bodyRule_scramble (rd := rd) hslot hp hlen)
  rw [show s.scramble p slot = (c, c') from hscr.symm] at hclen hcv hcarry hexec
  have hlen64 : c.length ≤ 64 := hclen.trans_le hn
  have hc'len (hcont : s.active.cont = true) : c'.length ≤ 64 := by rw [(hcarry hcont).1]; omega
  refine ⟨_, hexec, hclen, ?word, fun x hx => ?carry, fun i hi => ?len, fun a hreg hslotCarry => ?memory, ?rest⟩
  case word =>
    exact regWord_setRegCarry s hrd hlen64 (hslot.trans_le hN) rfl hc'len (hinv.fits hv hcv)
  case carry =>
    change loadCarry (s.setRegCarry rd c (.slotCarry slot) c').mem (.slotCarry x)
      ((s.setRegCarry rd c (.slotCarry slot) c').active.d - 1) = _
    rw [setRegCarry_active, loadCarry_setRegCarry s (arr := .slotCarry slot) (arr' := .slotCarry x) hrd hlen64
      (hslot.trans_le hN) rfl hc'len hx rfl (by omega) (fun h => (hcarry h).1) (fun h => hinv.fits hv (hcarry h).2)]
    simp only [CellArray.slotCarry.injEq]
    rfl
  case len => exact (len_setRegCarry s hrd).trans (if_neg hi)
  case memory =>
    refine read_setRegCarry_outside s (hclen ▸ hreg) fun ⟨hcont, hin⟩ => hslotCarry ⟨hcont, ?_⟩
    rwa [(hcarry hcont).1] at hin
  case rest =>
    rw [setRegCarry_eq]
    rfl

/-- Settles O42. -/
theorem decodeWritesThePayload : Obligations.DecodeWritesThePayload := by
  intro s rd rs1 c p r hinv hrd hv hc hlen hunit hdsc
  have hcfg := hinv.cfg_ok hv
  have hn := hcfg.n_le
  have hd := hcfg.d_le
  obtain ⟨hplen, hpv⟩ := descramble_payload hcfg hlen
  have hrem (hcont : s.active.cont = true) := descramble_remainder hcfg hcont hc.valid
  have hexec := exec_of_body_ok hv (bodyRule_decode (rd := rd) hc hlen hunit)
  rw [show s.descramble c = (p, r) from hdsc.symm] at hplen hpv hrem hexec
  have hlen64 : p.length ≤ 64 := hplen.trans_le (by omega)
  have hrlen (hcont : s.active.cont = true) : r.length ≤ 64 := by rw [(hrem hcont).1]; omega
  refine ⟨_, hexec, hplen, ?word, ?carry, fun i hi => ?len, fun a hreg hslotCarry => ?memory, ?rest⟩
  case word => exact regWord_setRegCarry s hrd hlen64 (by decide) rfl hrlen (hinv.fits hv hpv)
  case carry =>
    change loadCarry (s.setRegCarry rd p .descRem r).mem .descRem ((s.setRegCarry rd p .descRem r).active.d - 1) = _
    rw [setRegCarry_active, loadCarry_setRegCarry s hrd hlen64 (by decide) rfl hrlen (by decide) rfl (by omega)
      (fun h => (hrem h).1) (fun h => hinv.fits hv (hrem h).2)]
    simp only [and_true]
    rfl
  case len => exact (len_setRegCarry s hrd).trans (if_neg hi)
  case memory =>
    refine read_setRegCarry_outside s (hplen ▸ hreg) fun ⟨hcont, hin⟩ => hslotCarry ⟨hcont, ?_⟩
    rwa [(hrem hcont).1] at hin
  case rest =>
    rw [setRegCarry_eq]
    rfl

end Sys2Proof.Machine
end

section
/-! SUPPORT. The candidate set: what CANDIDATES stores for every slot, and what is read of it (41_scrambler.md R123). -/

namespace Sys2Proof.Machine

/-! ### The stores of CANDIDATES -/

/-- What CANDIDATES stores for slot `x`: its candidate and, in continuous mode, its next carry. -/
def slotStores (cont : Bool) (f : Nat → Word × Word) (x : Nat) : List (CellArray × Word) :=
  (.cand x, (f x).1) :: if cont then [(.slotCarry x, (f x).2)] else []

theorem storeCandidates_mem (f : Nat → Word × Word) (slot k : Nat) (s : State) :
    (storeCandidates slot s ((List.range' slot k).map f)).mem =
      storeAll s.mem ((List.range' slot k).flatMap (slotStores s.active.cont f)) := by
  induction k generalizing slot s with
  | zero => rfl
  | succ k ih =>
    rw [List.range'_succ, List.map_cons, List.flatMap_cons, storeAll_append, storeCandidates, ih]
    cases hcont : s.active.cont
    · simp only [hcont, Bool.false_eq_true, if_false, setCells_active]
      rfl
    · simp only [hcont, if_true, setCells_active]
      rfl

theorem mem_slotStores {cont : Bool} {f : Nat → Word × Word} {N : Nat} {e : CellArray × Word} :
    e ∈ (List.range N).flatMap (slotStores cont f) ↔
      ∃ x, x < N ∧ (e = (.cand x, (f x).1) ∨ cont = true ∧ e = (.slotCarry x, (f x).2)) := by
  simp only [List.mem_flatMap, List.mem_range, slotStores, List.mem_cons]
  refine exists_congr fun x => and_congr_right fun _ => or_congr_right ?_
  cases cont <;> simp

theorem slotStores_nodup (cont : Bool) (f : Nat → Word × Word) (N : Nat) :
    (((List.range N).flatMap (slotStores cont f)).map Prod.fst).Nodup := by
  rw [List.map_flatMap, List.nodup_flatMap]
  refine ⟨fun x _ => by unfold slotStores; cases cont <;> simp, ?_⟩
  refine (List.nodup_range (n := N)).imp ?_
  intro x y hxy
  unfold slotStores
  cases cont <;> simp [Function.onFun, hxy.symm]

section
variable {s : State} {p : Word} (hcfg : CfgOk s.active) (hlen : p.length = s.active.n - s.active.m)
  (hp : ValidWord s.active.q p)

/-- The state that the rule of CANDIDATES leaves on the payload `p`. -/
def State.withCandidates (s : State) (p : Word) : State :=
  { s with
    mem := storeAll s.mem ((List.range s.active.N).flatMap (slotStores s.active.cont (s.scramble p)))
    candValid := true
    selValid := false }

theorem candidatesRule_eq {rs1 : Nat} (hp : Holds s rs1 p) (hlen : p.length = s.active.n - s.active.m) :
    candidatesRule rs1 s = ⟨s.firstUnwritten (s.regCells rs1), .ok (s.withCandidates p)⟩ := by
  rw [candidatesRule, payload_reads (hp.length ▸ hlen), operand_holds hp, andThen_ok, done_unwritten, done_result,
    Option.or_none, storeCandidates_eq, List.range_eq_range', storeCandidates_mem, ← List.range_eq_range']
  rfl

include hcfg hlen hp

theorem slotStores_fit : StoresFit ((List.range s.active.N).flatMap (slotStores s.active.cont (s.scramble p))) := by
  intro e he
  have := hcfg.N_le
  have := hcfg.n_le
  have := hcfg.d_le
  obtain ⟨x, hx, rfl | ⟨hcont, rfl⟩⟩ := mem_slotStores.1 he
  · exact ⟨hx.trans_le hcfg.N_le, (scramble_codeword hcfg hx hlen hp).1.trans_le hcfg.n_le⟩
  · exact ⟨hx.trans_le hcfg.N_le, (scramble_carry hcfg hcont hx hlen hp).1.trans_le (by omega)⟩

/-- After CANDIDATES every slot's candidate is its codeword. -/
theorem candWord_withCandidates {x : Nat} (hx : x < s.active.N) :
    (s.withCandidates p).candWord x = some (s.scramble p x).1 := by
  obtain ⟨hclen, hcv⟩ := scramble_codeword hcfg hx hlen hp
  have hread : readWord (s.withCandidates p).mem (CellArray.cand x).base (s.scramble p x).1.length =
      some (s.scramble p x).1 :=
    readWord_eq_of_read (fun y hy => (hcv y hy).trans_le hcfg.q_le) fun j hj =>
      read_storeAll_inside (arr := .cand x) (slotStores_fit hcfg hlen hp) (slotStores_nodup _ _ _)
        (mem_slotStores.2 ⟨x, hx, .inl rfl⟩) hj
  rwa [hclen] at hread

/-- CANDIDATES changes no cell but those of the candidates and, in continuous mode, of the carries of its slots. -/
theorem read_withCandidates_outside {a : Nat} (hcand : ∀ x, x < s.active.N → ¬ StoredIn (.cand x) s.active.n a)
    (hcarry : s.active.cont = true → ∀ x, x < s.active.N → ¬ StoredIn (.slotCarry x) (s.active.d - 1) a) :
    (s.withCandidates p).mem.read a = s.mem.read a := by
  refine read_storeAll_outside fun e he => ?_
  obtain ⟨x, hx, rfl | ⟨hcont, rfl⟩⟩ := mem_slotStores.1 he
  · have := hcand x hx
    rwa [← (scramble_codeword hcfg hx hlen hp).1] at this
  · have := hcarry hcont x hx
    rwa [← (scramble_carry hcfg hcont hx hlen hp).1] at this

/-- CANDIDATES advances the carries of its slots in continuous mode, each from its own old one. -/
theorem carry_withCandidates {x : Nat} (hx16 : x < 16) : (s.withCandidates p).carry x =
    if s.active.cont = true ∧ x < s.active.N then (s.scramble p x).2 else s.carry x := by
  have hd := hcfg.d_le
  split
  · rename_i h
    obtain ⟨hcont, hx⟩ := h
    obtain ⟨hlen', hv⟩ := scramble_carry hcfg hcont hx hlen hp
    have hread : loadCarry (s.withCandidates p).mem (.slotCarry x) (s.scramble p x).2.length = (s.scramble p x).2 :=
      loadCarry_eq_of_read (fun y hy => (hv y hy).trans_le hcfg.q_le) fun j hj =>
        read_storeAll_inside (slotStores_fit hcfg hlen hp) (slotStores_nodup _ _ _)
          (mem_slotStores.2 ⟨x, hx, .inr ⟨hcont, rfl⟩⟩) hj
    rwa [hlen'] at hread
  · rename_i h
    refine loadCarry_congr fun j hj => ?_
    have hj64 : j < 64 := Nat.lt_of_lt_of_le hj ((Nat.sub_le _ 1).trans hd)
    refine read_withCandidates_outside hcfg hlen hp (fun y hy => ?_) fun hcont y hy => ?_
    · exact not_storedIn_of_ne (hy.trans_le hcfg.N_le) hx16 hcfg.n_le hj64 (by rintro ⟨⟩)
    · refine not_storedIn_of_ne (hy.trans_le hcfg.N_le) hx16 (by omega) hj64 ?_
      rintro ⟨⟩
      exact h ⟨hcont, hy⟩

end

end Sys2Proof.Machine
end

section
/-! SUPPORT. The Analyzer on a complete candidate set: the winner, and the state SELECT and COMMIT leave
(42_analyzer.md R130 to R134). -/

namespace Sys2Proof.Machine

/-! ### The winner -/

/-- The candidate of a slot, where its set is complete. -/
def State.candOf (s : State) (x : Nat) : Word := (s.candWord x).getD []

/-- Every slot of the configuration has a candidate, in range. -/
def CandComplete (s : State) : Prop := ∀ x, x < s.active.N → s.candWord x = some (s.candOf x) ∧
  (s.candOf x).length = s.active.n ∧ ValidWord s.active.q (s.candOf x)

theorem candOf_eq {s : State} {x : Nat} {w : Word} (h : s.candWord x = some w) : s.candOf x = w := by
  rw [State.candOf, h, Option.getD_some]

theorem candComplete_of {s : State} (h : ∀ x, x < s.active.N → ∃ w, s.candWord x = some w ∧ ValidWord s.active.q w) :
    CandComplete s := by
  intro x hx
  obtain ⟨w, hw, hv⟩ := h x hx
  rw [candOf_eq hw]
  exact ⟨hw, readWord_length hw, hv⟩

theorem Inv.candComplete {s : State} (h : Inv s) (hcand : s.candValid = true) : CandComplete s := by
  refine candComplete_of fun x hx => ?_
  have hany := (h.candidates hcand).2 x hx
  cases hw : s.candWord x with
  | none => rw [hw] at hany; cases hany
  | some w => exact ⟨w, rfl, by simpa [hw] using hany⟩

/-- The metric of the candidate of a slot. -/
def State.metricAt (s : State) (x : Nat) : Nat := s.metricOf (s.candOf x)

/-- What the loop of SELECT answers: the index it picks, and its metric. -/
def State.winner (s : State) : Nat × Nat :=
  arbitrate 0 (s.metricAt 0) 1 ((List.range' 1 (s.active.N - 1)).map s.metricAt)

/-- The winner is the first slot of lowest metric. -/
theorem winner_spec {s : State} (hN : 1 ≤ s.active.N) : s.winner.1 < s.active.N ∧
    s.winner.2 = s.metricAt s.winner.1 ∧ ∀ x, x < s.active.N → s.metricAt s.winner.1 ≤ s.metricAt x ∧
      (x < s.winner.1 → s.metricAt s.winner.1 < s.metricAt x) := by
  have hmem (x : Nat) (hx : x < s.active.N) (h0 : x ≠ 0) :
      s.metricAt x ∈ (List.range' 1 (s.active.N - 1)).map s.metricAt :=
    List.mem_map_of_mem (List.mem_range'_1.2 (by omega))
  unfold State.winner
  obtain ⟨h, hle⟩ | ⟨j, hj, h, hlt, hle, hfirst⟩ := arbitrate_spec 0 (s.metricAt 0) 1
    ((List.range' 1 (s.active.N - 1)).map s.metricAt)
  · rw [h]
    refine ⟨hN, rfl, fun x hx => ⟨?_, fun hx0 => absurd hx0 (Nat.not_lt_zero x)⟩⟩
    by_cases h0 : x = 0
    · rw [h0]
    · exact hle _ (hmem x hx h0)
  · have hget (i : Nat) (hi : i < ((List.range' 1 (s.active.N - 1)).map s.metricAt).length) :
        ((List.range' 1 (s.active.N - 1)).map s.metricAt)[i] = s.metricAt (1 + i) := by simp
    rw [List.length_map, List.length_range'] at hj
    rw [h]
    rw [hget] at hlt hle ⊢
    refine ⟨by simp only; omega, rfl, fun x hx => ?_⟩
    obtain rfl | h0 := Nat.eq_zero_or_pos x
    · exact ⟨hlt.le, fun _ => hlt⟩
    · refine ⟨hle _ (hmem x hx (by omega)), fun hxj => ?_⟩
      have := hfirst (x - 1) (by simp only at hxj; omega)
      rwa [hget, hget, show 1 + (x - 1) = x by omega] at this

/-- The weights written out sum to `SUMV`. -/
theorem sum_weights_eq_sumv (q : Nat) (c : Word) : (c.map fun x => 2 * (x : Int) - ((q : Int) - 1)).sum = sumv q c := by
  simp only [sumv, List.bind_eq_flatMap, List.pure_def, List.map_flatMap, List.map_eq_flatMap (f := weight q), weight]
  rfl

theorem rdsMetric_eq (s : State) (c : Word) : rdsMetric s c = s.metricOf c := by
  rw [rdsMetric, sum_weights_eq_sumv, State.metricOf]

/-- The weights of 64 symbols of at most 8 bits keep a metric below 2^32. -/
theorem metricOf_lt {s : State} {c : Word} (hlen : c.length ≤ 64) (hq : s.active.q ≤ 256)
    (hc : ValidWord s.active.q c) : s.metricOf c < 2 ^ 32 := by
  have hsum (w : Word) (hw : ValidWord s.active.q w) :
      -(w.length * 256 : Int) ≤ sumv s.active.q w ∧ sumv s.active.q w ≤ w.length * 256 := by
    induction w with
    | nil => simp [sumv]
    | cons x w ih =>
      have hx := Nat.succ_le_of_lt (hw x (by simp))
      obtain ⟨hlow, hhigh⟩ := ih fun y hy => hw y (List.mem_cons_of_mem _ hy)
      have hcons : sumv s.active.q (x :: w) = weight s.active.q x + sumv s.active.q w := by simp [sumv]
      rw [hcons, List.length_cons, weight]
      omega
  have hrds := s.rds.toInt_lt
  have hrds' := s.rds.le_toInt
  have := hsum c hc
  unfold State.metricOf
  omega

/-! ### SELECT and COMMIT -/

/-- The state that the rule of SELECT leaves. -/
def State.selected (s : State) : State :=
  { s with
    selPending := BitVec.ofNat 4 s.winner.1
    metric := BitVec.ofNat 32 s.winner.2
    selValid := true }

theorem selectRule_eq {s : State} (hN : 1 ≤ s.active.N) (hcand : s.candValid = true) (h : CandComplete s) :
    selectRule s = done s.selected := by
  have hmetric (x : Nat) (hx : x < s.active.N) : s.candidateMetric x = done (s.metricAt x) :=
    candidateMetric_of_candWord (h x hx).1
  have hgather : gather s.candidateMetric (List.range' 1 (s.active.N - 1)) =
      ⟨s.firstUnwritten ((List.range' 1 (s.active.N - 1)).flatMap fun _ => []),
        .ok ((List.range' 1 (s.active.N - 1)).map s.metricAt)⟩ :=
    gather_eq fun x hx => hmetric x (by rw [List.mem_range'_1] at hx; omega)
  rw [List.flatMap_eq_nil_iff.2 fun _ _ => rfl] at hgather
  rw [selectRule, if_pos hcand, hmetric 0 (by omega), andThen_done, hgather]
  rfl

/-- The running digital sum after the codeword `c`: saturating (42_analyzer.md R131). -/
def State.rdsAfter (s : State) (c : Word) : Word32 :=
  if s.rds.toInt + sumv s.active.q c > 2 ^ 31 - 1 then BitVec.ofInt 32 (2 ^ 31 - 1)
  else if s.rds.toInt + sumv s.active.q c < -(2 ^ 31) then BitVec.ofInt 32 (-(2 ^ 31))
  else BitVec.ofInt 32 (s.rds.toInt + sumv s.active.q c)

/-- `RDS_OVF` after the codeword `c`: set where the sum saturated. -/
def State.rdsOvfAfter (s : State) (c : Word) : Bool :=
  s.rdsOvf || decide (s.rds.toInt + sumv s.active.q c > 2 ^ 31 - 1 ∨ s.rds.toInt + sumv s.active.q c < -(2 ^ 31))

theorem updateRds_eq (s : State) (c : Word) :
    s.updateRds c = { s with rds := s.rdsAfter c, rdsOvf := s.rdsOvfAfter c } := by
  unfold State.updateRds State.rdsAfter State.rdsOvfAfter
  dsimp only
  by_cases hhigh : s.rds.toInt + sumv s.active.q c > 2 ^ 31 - 1
  · rw [if_pos hhigh, if_pos hhigh, decide_eq_true (.inl hhigh), Bool.or_true]
  · by_cases hlow : s.rds.toInt + sumv s.active.q c < -(2 ^ 31)
    · rw [if_neg hhigh, if_neg hhigh, if_pos hlow, if_pos hlow, decide_eq_true (.inr hlow), Bool.or_true]
    · rw [if_neg hhigh, if_neg hhigh, if_neg hlow, if_neg hlow, decide_eq_false (not_or.2 ⟨hhigh, hlow⟩),
        Bool.or_false]

/-- The state that the rule of COMMIT leaves. -/
def State.committed (s : State) (rd : Nat) : State :=
  { s.setReg rd (s.candOf s.selPending.toNat) with
    rds := s.rdsAfter (s.candOf s.selPending.toNat)
    rdsOvf := s.rdsOvfAfter (s.candOf s.selPending.toNat)
    sel := s.selPending
    wordcount := s.wordcount + 1
    candValid := false
    selValid := false }

theorem commitRule_eq {s : State} (rd : Nat) (hsel : s.selValid = true) {c : Word}
    (h : s.candWord s.selPending.toNat = some c) : commitRule rd s = done (s.committed rd) := by
  rw [commitRule, if_pos hsel, candidate_of_candWord h, andThen_done, ← candOf_eq h, updateRds_eq]
  rfl

/-- A command whose rule answers a state without reading an unwritten cell. -/
theorem exec_of_body_done {i : Instr} {s u : State} (hv : s.cfgValid = true) (h : bodyRule s i = done u) :
    exec i s = .next u.succeed := by
  rw [exec_of_valid i hv, h, complete_done]

/-- Writing a register leaves the candidates. -/
theorem candWord_setReg (s : State) {rd x : Nat} {w : Word} (hrd : rd < 16) (hx : x < 16) (hw : w.length ≤ 64)
    (hn : s.active.n ≤ 64) : (s.setReg rd w).candWord x = s.candWord x :=
  readWord_congr _ fun j hj => read_setReg_outside s rd w ((CellArray.cand x).addr j)
    (not_storedIn_of_ne hrd hx hw (Nat.lt_of_lt_of_le hj hn) (by rintro ⟨⟩))

/-- COMMIT emits the selected candidate and leaves it in its slot. -/
theorem regWord_committed {s : State} {rd : Nat} {c : Word} (hrd : rd < 16) (hc : ∀ x ∈ c, x < 256)
    (hn : s.active.n ≤ 64) (h : s.candWord s.selPending.toNat = some c) :
    (s.committed rd).regWord rd = some c ∧ (s.committed rd).candWord s.selPending.toNat = some c := by
  have hlen : c.length ≤ 64 := (readWord_length h).trans_le hn
  have hcand := candWord_setReg s (w := s.candOf s.selPending.toNat) hrd s.selPending.isLt
    (by rwa [candOf_eq h]) hn
  exact ⟨(regWord_setReg_same s _ hrd (by rwa [candOf_eq h])).trans (by rw [candOf_eq h]), hcand.trans h⟩

/-- CANDIDATES leaves a complete candidate set. -/
theorem candComplete_withCandidates {s : State} {p : Word} (hcfg : CfgOk s.active)
    (hlen : p.length = s.active.n - s.active.m) (hp : ValidWord s.active.q p) : CandComplete (s.withCandidates p) :=
  candComplete_of fun _ hx =>
    ⟨_, candWord_withCandidates hcfg hlen hp hx, (scramble_codeword hcfg hx hlen hp).2⟩

/-- SELECT leaves the winner pending: slot numbers fit its four bits. -/
theorem selPending_selected {s : State} (h : s.winner.1 < 16) : s.selected.selPending.toNat = s.winner.1 :=
  Nat.mod_eq_of_lt h

/-- The rule of ENCODE on a checked payload: the three rules in sequence. -/
theorem bodyRule_encode {s : State} {rd rs1 : Nat} {p : Word} (hcfg : CfgOk s.active) (hp : Holds s rs1 p)
    (hlen : p.length = s.active.n - s.active.m) : CandComplete (s.withCandidates p) ∧
      (s.withCandidates p).winner.1 < s.active.N ∧ bodyRule s (.encode rd rs1) =
        ⟨s.firstUnwritten (s.regCells rs1), .ok ((s.withCandidates p).selected.committed rd)⟩ := by
  have hcomplete := candComplete_withCandidates hcfg hlen hp.valid
  have hwin : (s.withCandidates p).winner.1 < s.active.N := (winner_spec (s := s.withCandidates p) hcfg.N_pos).1
  have hpending := selPending_selected (hwin.trans_le hcfg.N_le)
  have hcommit := commitRule_eq (s := (s.withCandidates p).selected) rd rfl
    (c := (s.withCandidates p).candOf (s.withCandidates p).winner.1) (by rw [hpending]; exact (hcomplete _ hwin).1)
  refine ⟨hcomplete, hwin, ?_⟩
  rw [bodyRule, encodeRule, candidatesRule_eq hp hlen, andThen_ok,
    selectRule_eq (s := s.withCandidates p) hcfg.N_pos rfl hcomplete, andThen_done, hcommit, done_unwritten,
    done_result, Option.or_none]

end Sys2Proof.Machine
end

section
/-! PROOFS. CANDIDATES and the Analyzer (41_scrambler.md R123, 42_analyzer.md). -/

namespace Sys2Proof.Machine

/-- Settles O34. -/
theorem candidatesRunsEverySlot : Obligations.CandidatesRunsEverySlot := by
  intro s rs1 p hinv hv hp hlen
  have hcfg := hinv.cfg_ok hv
  exact ⟨_, exec_of_body_ok (i := .candidates rs1) hv (candidatesRule_eq hp hlen),
    fun x hx => candWord_withCandidates hcfg hlen hp.valid hx, fun x hx => carry_withCandidates hcfg hlen hp.valid hx,
    fun a hcand hcarry => read_withCandidates_outside hcfg hlen hp.valid hcand hcarry, rfl⟩

/-- Settles O38: the arbiter's loop answers the first of the lowest metrics. -/
theorem selectPicksTheFirstLowestMetric : Obligations.SelectPicksTheFirstLowestMetric := by
  intro s hinv hv hcand
  have hcfg := hinv.cfg_ok hv
  have hcomplete := hinv.candComplete hcand
  obtain ⟨hbest, hmetric, hmin⟩ := winner_spec hcfg.N_pos
  obtain ⟨hw, hlen, hvalid⟩ := hcomplete _ hbest
  simp only [rdsMetric_eq]
  refine ⟨_, s.winner.1, _, exec_of_body_done hv (selectRule_eq hcfg.N_pos hcand hcomplete), hbest, hw,
    metricOf_lt (hlen.trans_le hcfg.n_le) hcfg.q_le hvalid, fun x hx => ⟨_, (hcomplete x hx).1, hmin x hx⟩, ?_⟩
  rw [State.selected, hmetric]
  rfl

/-- Settles O39. -/
theorem commitEmitsTheWinner : Obligations.CommitEmitsTheWinner := by
  intro s rd hinv hrd hv hsel
  have hcfg := hinv.cfg_ok hv
  obtain ⟨hcand, hpending⟩ := hinv.selection hsel
  obtain ⟨hw, hlen, hvalid⟩ := hinv.candComplete hcand _ hpending
  simp only [sum_weights_eq_sumv]
  refine ⟨_, _, _, exec_of_body_done hv (commitRule_eq rd hsel hw), hw,
    regWord_setReg_same s _ hrd (hinv.fits hv hvalid), rfl, ?rds, rfl, fun i hi => ?len, fun a ha => ?memory, ?rest⟩
  case rds =>
    have hrds := updateRds_rds s (s.candOf s.selPending.toNat)
    rwa [updateRds_eq] at hrds
  case len => exact (len_setReg s _ hrd).trans (if_neg hi)
  case memory => exact read_setReg_outside s rd _ a (hlen ▸ ha)
  case rest =>
    have hcount : s.wordcount + 1 = BitVec.ofNat 32 (s.wordcount.toNat + 1) := by
      rw [BitVec.ofNat_add, BitVec.ofNat_toNat, BitVec.setWidth_eq]
      rfl
    rw [State.committed, hcount]
    rfl

/-- Settles O40: ENCODE's rule is the three rules, and what ends a command leaves nothing that the next of them
reads. -/
theorem encodeIsCandidatesSelectCommit : Obligations.EncodeIsCandidatesSelectCommit := by
  intro s rd rs1 p hinv hrd hv hp hlen
  have hcfg := hinv.cfg_ok hv
  obtain ⟨hcomplete, hwin, hencode⟩ := bodyRule_encode (rd := rd) hcfg hp hlen
  have hpending : (BitVec.ofNat 4 (s.withCandidates p).winner.1).toNat = (s.withCandidates p).winner.1 :=
    selPending_selected (hwin.trans_le hcfg.N_le)
  have hwinner : (s.withCandidates p).candWord (BitVec.ofNat 4 (s.withCandidates p).winner.1).toNat =
      some ((s.withCandidates p).candOf (s.withCandidates p).winner.1) := by
    rw [hpending]
    exact (hcomplete _ hwin).1
  have hcandidates := exec_of_body_ok (i := .candidates rs1) hv (candidatesRule_eq hp hlen)
  have hselect := exec_of_body_done (i := .select)
    (s := endedReading s (s.withCandidates p) (s.regCells rs1)) hv (selectRule_eq hcfg.N_pos rfl hcomplete)
  have hcommit := exec_of_body_done (i := .commit rd)
    (s := (endedReading s (s.withCandidates p) (s.regCells rs1)).selected.succeed) hv
    (commitRule_eq rd rfl hwinner)
  refine ⟨_, _, _, hcandidates, hselect, hcommit, exec_of_body_ok hv hencode, rfl, rfl, rfl, rfl, ?_, ?_⟩
  · exact hpending.trans_lt hwin
  · obtain ⟨hreg, hcand⟩ := regWord_committed (s := (s.withCandidates p).selected) hrd
      (hinv.fits hv (hcomplete _ hwin).2.2) hcfg.n_le hwinner
    exact hreg.trans hcand.symm

end Sys2Proof.Machine
end

section
/-! SUPPORT. What each command may store, said once, and the invariant under it. -/

namespace Sys2Proof.Machine

/-! ### What a command may store -/

/-- The commands that write the candidates (41_scrambler.md R123, 42_analyzer.md R134). -/
def FillsCandidates (i : Instr) : Prop := (∃ rs1, i = .candidates rs1) ∨ ∃ rd rs1, i = .encode rd rs1

/-- The commands that advance the carry of slot `x` in continuous mode (41_scrambler.md R126). -/
def Advances (i : Instr) (x : Nat) : Prop := (∃ rd rs1, i = .scramble rd rs1 x) ∨ FillsCandidates i

/-- The words that command `i` may store under configuration `A`. -/
inductive MayStore (i : Instr) (A : ActiveConfig) : CellArray × Word → Prop
  | reg {r : Nat} {w : Word} (hr : r < 16) (hw : w.length ≤ 64) : MayStore i A (.wsym r, w)
  | carry {x : Nat} {w : Word} (hcont : A.cont = true) (hx : x < A.N) (hlen : w.length = A.d - 1)
      (hw : ValidWord A.q w) (hi : Advances i x) : MayStore i A (.slotCarry x, w)
  | remainder {w : Word} (hcont : A.cont = true) (hlen : w.length = A.d - 1) (hw : ValidWord A.q w)
      (hi : ∃ rd rs1, i = .decode rd rs1) : MayStore i A (.descRem, w)
  | candidate {x : Nat} {w : Word} (hx : x < A.N) (hlen : w.length = A.n) (hi : FillsCandidates i) :
      MayStore i A (.cand x, w)

theorem MayStore.fits {i : Instr} {A : ActiveConfig} {e : CellArray × Word} (hcfg : CfgOk A) (h : MayStore i A e) :
    e.1.index < 16 ∧ e.2.length ≤ 64 := by
  have := hcfg.N_le
  have := hcfg.n_le
  have := hcfg.d_le
  cases h with
  | reg hr hw => exact ⟨hr, hw⟩
  | carry _ hx hlen => exact ⟨hx.trans_le hcfg.N_le, hlen.trans_le (by omega)⟩
  | remainder _ hlen => exact ⟨Nat.zero_lt_succ _, hlen.trans_le (by omega)⟩
  | candidate hx hlen => exact ⟨hx.trans_le hcfg.N_le, hlen.trans_le hcfg.n_le⟩

/-- The cells and the register lengths that the rule of command `i` leaves. -/
structure Stores (i : Instr) (s u : State) (l : List (CellArray × Word)) : Prop where
  mem : u.mem = storeAll s.mem l
  may : ∀ e ∈ l, MayStore i s.active e
  len : ∀ j, j < 16 → u.len j ≤ 64

/-- A cell of an array that the command may not store to is as before. -/
theorem Stores.read_eq {i : Instr} {s u : State} {l : List (CellArray × Word)} {arr : CellArray} {k : Nat}
    (h : Stores i s u l) (hcfg : CfgOk s.active) (hx : arr.index < 16) (hk : k < 64)
    (hno : ∀ w, ¬ MayStore i s.active (arr, w)) : u.mem.read (arr.addr k) = s.mem.read (arr.addr k) := by
  rw [h.mem]
  refine read_storeAll_outside fun e he => ?_
  obtain ⟨hx', hlen⟩ := (h.may e he).fits hcfg
  refine not_storedIn_of_ne hx' hx hlen hk ?_
  rintro rfl
  exact hno e.2 (h.may e he)

theorem holds_of_operand {s : State} {i : Nat} {w : Word} (hi : i < 16) (h : (s.operand i).result = .ok w) :
    Holds s i w := by
  obtain ⟨hvalue, hvalid⟩ := operand_ok_iff.1 h
  exact ⟨hi, hvalue, hvalid⟩

theorem holds_of_payload {s : State} {rs1 : Nat} {p : Word} (hi : rs1 < 16) (h : (payload rs1 s).result = .ok p) :
    Holds s rs1 p ∧ p.length = s.active.n - s.active.m := by
  obtain ⟨hlen, hop⟩ := payload_ok_iff.1 h
  have hp := holds_of_operand hi hop
  exact ⟨hp, hp.length.trans hlen⟩

section
variable {s : State} (hinv : Inv s)
include hinv

/-- A command that writes one register. -/
theorem stores_setReg (i : Instr) {rd : Nat} {w : Word} (hrd : rd < 16) (hw : w.length ≤ 64) :
    Stores i s (s.setReg rd w) [(.wsym rd, w)] where
  mem := rfl
  may e he := by rw [List.mem_singleton.1 he]; exact .reg hrd hw
  len j hj := by
    rw [len_setReg s w hrd]
    split
    · exact hw
    · exact hinv.len_le j hj

/-- A command that stores no cell. -/
theorem stores_nil (i : Instr) {u : State} (hmem : u.mem = s.mem) (hwlen : u.wlen = s.wlen) : Stores i s u [] where
  mem := hmem
  may _ he := by cases he
  len j hj := by
    rw [State.len, hwlen]
    exact hinv.len_le j hj

theorem Inv.operand_length {rs1 : Nat} {w : Word} (h : Holds s rs1 w) : w.length ≤ 64 :=
  h.length ▸ hinv.len_le rs1 h.reg

/-- A register and, in continuous mode, a carry. -/
theorem stores_setRegCarry {i : Instr} {rd : Nat} {w r : Word} {arr : CellArray} (hrd : rd < 16) (hw : w.length ≤ 64)
    (hr : s.active.cont = true → MayStore i s.active (arr, r)) : Stores i s (s.setRegCarry rd w arr r)
      ((.wsym rd, w) :: if s.active.cont then [(arr, r)] else []) where
  mem := setRegCarry_mem s
  may e he := by
    obtain rfl | he := List.mem_cons.1 he
    · exact .reg hrd hw
    · split at he
      · rename_i hcont
        rw [List.mem_singleton.1 he]
        exact hr hcont
      · cases he
  len j hj := by
    rw [len_setRegCarry s hrd]
    split
    · exact hw
    · exact hinv.len_le j hj

/-- The stores of CANDIDATES. -/
theorem stores_withCandidates {i : Instr} {p : Word} (hcfg : CfgOk s.active)
    (hlen : p.length = s.active.n - s.active.m) (hp : ValidWord s.active.q p) (hi : FillsCandidates i) :
    Stores i s (s.withCandidates p) ((List.range s.active.N).flatMap (slotStores s.active.cont (s.scramble p))) where
  mem := rfl
  may e he := by
    obtain ⟨x, hx, rfl | ⟨hcont, rfl⟩⟩ := mem_slotStores.1 he
    · exact .candidate hx (scramble_codeword hcfg hx hlen hp).1 hi
    · obtain ⟨hclen, hcv⟩ := scramble_carry hcfg hcont hx hlen hp
      exact .carry hcont hx hclen hcv (.inr hi)
  len j hj := hinv.len_le j hj

/-- Every command but CONFIGURE and RESET_STATE leaves what it may store, in some order. -/
theorem bodyRule_stores {i : Instr} {u : State} (hwf : i.wellFormed = true) (hconf : i ≠ .configure)
    (hreset : i ≠ .resetState) (hvalid : needsConfig i = true → s.cfgValid = true)
    (h : (bodyRule s i).result = .ok u) : ∃ l, Stores i s u l := by
  by_cases hnop : i = .nop
  · subst hnop
    cases h
    exact ⟨[], stores_nil hinv _ rfl rfl⟩
  have hv := hvalid (needsConfig_iff.2 ⟨hnop, hconf, hreset⟩)
  have hcfg := hinv.cfg_ok hv
  have hn := hcfg.n_le
  cases i with
  | nop => exact absurd rfl hnop
  | configure => exact absurd rfl hconf
  | resetState => exact absurd rfl hreset
  | wadd rd rs1 rs2 | wmul rd rs1 rs2 =>
    simp only [Instr.wellFormed, Bool.and_eq_true, isReg_iff] at hwf
    obtain ⟨⟨hrd, hrs1⟩, hrs2⟩ := hwf
    obtain ⟨-, a, b, ha, -, rfl⟩ := elementwise_ok_iff.1 h
    have halen := hinv.operand_length (holds_of_operand hrs1 ha)
    exact ⟨_, stores_setReg hinv _ hrd (by rw [List.length_zipWith]; omega)⟩
  | pmul rd rs1 rs2 =>
    simp only [Instr.wellFormed, Bool.and_eq_true, isReg_iff] at hwf
    obtain ⟨⟨hrd, hrs1⟩, hrs2⟩ := hwf
    obtain ⟨-, -, hfit, a, b, ha, hb, rfl⟩ := pmulRule_ok h
    rw [← (holds_of_operand hrs1 ha).length, ← (holds_of_operand hrs2 hb).length] at hfit
    exact ⟨_, stores_setReg hinv _ hrd (by rwa [pmulf_length])⟩
  | pdivmod rd rd2 rs1 rs2 =>
    simp only [Instr.wellFormed, Bool.and_eq_true, isReg_iff] at hwf
    obtain ⟨⟨⟨hrd, hrd2⟩, hrs1⟩, hrs2⟩ := hwf
    obtain ⟨-, hb0, a, b, ha, hb, -, rfl⟩ := pdivmodRule_ok h
    have halen := hinv.operand_length (holds_of_operand hrs1 ha)
    have hblen := (holds_of_operand hrs2 hb).length
    have hblen' := hinv.operand_length (holds_of_operand hrs2 hb)
    have hqlen := divmodf_quotient_length (q := s.active.q) a b (hinv.q_pos hv)
    have hrlen := divmodf_remainder_length (q := s.active.q) a b (hinv.q_pos hv)
    refine ⟨[(.wsym rd, (divmodf s.active.q a b).1), (.wsym rd2, (divmodf s.active.q a b).2)], rfl, ?_, fun j hj => ?_⟩
    · simp only [List.forall_mem_cons, List.not_mem_nil, false_imp_iff, implies_true, and_true]
      exact ⟨.reg hrd (by omega), .reg hrd2 (by omega)⟩
    · rw [len_setReg _ _ hrd2, len_setReg s _ hrd]
      have := hinv.len_le j hj
      split_ifs <;> omega
  | scramble rd rs1 slot =>
    simp only [Instr.wellFormed, Bool.and_eq_true, isReg_iff, isImm8_iff] at hwf
    obtain ⟨⟨hrd, hrs1⟩, -⟩ := hwf
    obtain ⟨hslot, p, hp, rfl⟩ := scrambleRule_ok h
    obtain ⟨hp, hlen⟩ := holds_of_payload hrs1 hp
    refine ⟨_, stores_setRegCarry hinv hrd ((scramble_codeword hcfg hslot hlen hp.valid).1.trans_le hn) fun hcont => ?_⟩
    obtain ⟨hclen, hcv⟩ := scramble_carry hcfg hcont hslot hlen hp.valid
    exact .carry hcont hslot hclen hcv (.inl ⟨_, _, rfl⟩)
  | candidates rs1 =>
    simp only [Instr.wellFormed, isReg_iff] at hwf
    obtain ⟨p, hp, -⟩ := candidatesRule_ok h
    obtain ⟨hp, hlen⟩ := holds_of_payload hwf hp
    rw [bodyRule, candidatesRule_eq hp hlen] at h
    cases h
    exact ⟨_, stores_withCandidates hinv hcfg hlen hp.valid (.inl ⟨_, rfl⟩)⟩
  | select =>
    obtain ⟨-, m0, ms, -, -, rfl⟩ := selectRule_ok h
    exact ⟨[], stores_nil hinv _ rfl rfl⟩
  | commit rd =>
    simp only [Instr.wellFormed, isReg_iff] at hwf
    obtain ⟨-, c, rfl, rfl⟩ := commitRule_ok h
    rw [updateRds_eq]
    have hstores := stores_setReg hinv (.commit rd) (rd := rd)
      (w := s.seenWord (CellArray.cand s.selPending.toNat).base s.active.n) hwf (by rwa [seenWord_length])
    exact ⟨_, hstores.mem, hstores.may, hstores.len⟩
  | encode rd rs1 =>
    simp only [Instr.wellFormed, Bool.and_eq_true, isReg_iff] at hwf
    obtain ⟨hrd, hrs1⟩ := hwf
    obtain ⟨s1, h1, -⟩ := encodeRule_ok_iff.1 h
    obtain ⟨p, hp, -⟩ := candidatesRule_ok h1
    obtain ⟨hp, hlen⟩ := holds_of_payload hrs1 hp
    obtain ⟨hcomplete, hwin, hencode⟩ := bodyRule_encode (rd := rd) hcfg hp hlen
    rw [hencode] at h
    cases h
    have hstores := stores_withCandidates hinv (i := .encode rd rs1) hcfg hlen hp.valid (.inr ⟨_, _, rfl⟩)
    have hclen : ((s.withCandidates p).selected.candOf (s.withCandidates p).selected.selPending.toNat).length ≤ 64 := by
      have := hcfg.N_le
      have hpending : (s.withCandidates p).selected.selPending.toNat = (s.withCandidates p).winner.1 :=
        Nat.mod_eq_of_lt (by omega)
      rw [hpending]
      exact (hcomplete _ hwin).2.1.trans_le hn
    refine ⟨(List.range s.active.N).flatMap (slotStores s.active.cont (s.scramble p)) ++ [(CellArray.wsym rd,
        (s.withCandidates p).selected.candOf (s.withCandidates p).selected.selPending.toNat)],
      by rw [storeAll_append]; rfl, fun e he => ?_, fun j hj => ?_⟩
    · exact (List.mem_append.1 he).elim (hstores.may e) fun he => List.mem_singleton.1 he ▸ .reg hrd hclen
    · refine (len_setReg _ _ hrd).trans_le ?_
      split
      · exact hclen
      · exact hinv.len_le j hj
  | decode rd rs1 =>
    simp only [Instr.wellFormed, Bool.and_eq_true, isReg_iff] at hwf
    obtain ⟨hrd, hrs1⟩ := hwf
    obtain ⟨hlen, c, hc, -, rfl⟩ := decodeRule_ok h
    have hc := holds_of_operand hrs1 hc
    have hclen := hc.length.trans hlen
    have hplen := (descramble_payload hcfg hclen).1
    refine ⟨_, stores_setRegCarry hinv hrd (by omega) fun hcont => ?_⟩
    obtain ⟨hrlen, hrv⟩ := descramble_remainder hcfg hcont hc.valid
    exact .remainder hcont hrlen hrv ⟨_, _, rfl⟩

end

end Sys2Proof.Machine
end

section
/-! PROOFS. What no command but its own may change: the Analyzer, the carries and the configuration (10_state.md). -/

namespace Sys2Proof.Machine

/-! ### The Analyzer -/

/-- `t` has the running digital sum, its overflow flag, the last selection and the word count of `s`. -/
structure KeepsAnalyzer (s t : State) : Prop where
  rds : t.rds = s.rds
  rdsOvf : t.rdsOvf = s.rdsOvf
  sel : t.sel = s.sel
  wordcount : t.wordcount = s.wordcount

theorem keepsAnalyzer_setRegCarry (s : State) (rd : Nat) (w r : Word) (arr : CellArray) :
    KeepsAnalyzer s (s.setRegCarry rd w arr r) := by
  rw [setRegCarry_eq]
  exact ⟨rfl, rfl, rfl, rfl⟩

theorem keepsAnalyzer_candidatesRule {rs1 : Nat} {s u : State} (h : (candidatesRule rs1 s).result = .ok u) :
    KeepsAnalyzer s u := by
  obtain ⟨p, -, rfl⟩ := candidatesRule_ok h
  rw [storeCandidates_eq]
  exact ⟨rfl, rfl, rfl, rfl⟩

theorem keepsAnalyzer_selectRule {s u : State} (h : (selectRule s).result = .ok u) : KeepsAnalyzer s u := by
  obtain ⟨-, m0, ms, -, -, rfl⟩ := selectRule_ok h
  exact ⟨rfl, rfl, rfl, rfl⟩

theorem bodyRule_keepsAnalyzer {i : Instr} {s u : State} (hcommit : ∀ rd, i ≠ .commit rd)
    (hencode : ∀ rd rs1, i ≠ .encode rd rs1) (hconf : i ≠ .configure) (hreset : i ≠ .resetState)
    (h : (bodyRule s i).result = .ok u) : KeepsAnalyzer s u := by
  cases i with
  | nop => cases h; exact ⟨rfl, rfl, rfl, rfl⟩
  | configure => exact absurd rfl hconf
  | resetState => exact absurd rfl hreset
  | wadd rd rs1 rs2 | wmul rd rs1 rs2 =>
    obtain ⟨-, a, b, -, -, rfl⟩ := elementwise_ok_iff.1 h
    exact ⟨rfl, rfl, rfl, rfl⟩
  | pmul rd rs1 rs2 =>
    obtain ⟨-, -, -, a, b, -, -, rfl⟩ := pmulRule_ok h
    exact ⟨rfl, rfl, rfl, rfl⟩
  | pdivmod rd rd2 rs1 rs2 =>
    obtain ⟨-, -, a, b, -, -, -, rfl⟩ := pdivmodRule_ok h
    exact ⟨rfl, rfl, rfl, rfl⟩
  | scramble rd rs1 slot =>
    obtain ⟨-, p, -, rfl⟩ := scrambleRule_ok h
    exact keepsAnalyzer_setRegCarry _ _ _ _ _
  | candidates rs1 => exact keepsAnalyzer_candidatesRule h
  | select => exact keepsAnalyzer_selectRule h
  | commit rd => exact absurd rfl (hcommit rd)
  | encode rd rs1 => exact absurd rfl (hencode rd rs1)
  | decode rd rs1 =>
    obtain ⟨-, c, -, -, rfl⟩ := decodeRule_ok h
    exact keepsAnalyzer_setRegCarry _ _ _ _ _

/-- COMMIT only ever sets the overflow flag. -/
theorem commitRule_rdsOvf {rd : Nat} {s u : State} (h : (commitRule rd s).result = .ok u) (hne : u.rdsOvf ≠ s.rdsOvf) :
    u.rdsOvf = true := by
  obtain ⟨-, c, -, rfl⟩ := commitRule_ok h
  rw [updateRds_eq] at hne ⊢
  cases hovf : s.rdsOvf
  · exact Bool.eq_true_of_not_eq_false (hovf ▸ hne)
  · exact Bool.or_eq_true_iff.2 (.inl hovf)

theorem encodeRule_rdsOvf {rd rs1 : Nat} {s u : State} (h : (encodeRule rd rs1 s).result = .ok u)
    (hne : u.rdsOvf ≠ s.rdsOvf) : u.rdsOvf = true := by
  obtain ⟨s1, h1, s2, h2, h3⟩ := encodeRule_ok_iff.1 h
  refine commitRule_rdsOvf h3 ?_
  rwa [(keepsAnalyzer_selectRule h2).rdsOvf, (keepsAnalyzer_candidatesRule h1).rdsOvf]

/-- Settles O15: every rule but those of COMMIT and ENCODE keeps the Analyzer or is a reset of it, COMMIT's sum only
ever sets the flag, and a failure keeps all. -/
theorem analyzerStateAdvancesOnlyOnCommit : Obligations.AnalyzerStateAdvancesOnlyOnCommit := by
  intro i s t h
  by_cases ht : t.errcode = 0
  case neg =>
    obtain ⟨c, x, rfl⟩ := exec_failure h ht
    exact ⟨by simp, by simp⟩
  obtain ⟨u, x, hu, rfl⟩ := exec_success h ht
  simp only [recordFault_rds, recordFault_sel, recordFault_wordcount, recordFault_rdsOvf, succeed_rds, succeed_sel,
    succeed_wordcount, succeed_rdsOvf]
  by_cases hcommit : ∃ rd, i = .commit rd
  · obtain ⟨rd, rfl⟩ := hcommit
    exact ⟨fun _ => .inl ⟨rd, rfl⟩, fun hne => ⟨commitRule_rdsOvf hu hne, .inl ⟨rd, rfl⟩⟩⟩
  by_cases hencode : ∃ rd rs1, i = .encode rd rs1
  · obtain ⟨rd, rs1, rfl⟩ := hencode
    exact ⟨fun _ => .inr (.inl ⟨rd, rs1, rfl⟩), fun hne => ⟨encodeRule_rdsOvf hu hne, .inr ⟨rd, rs1, rfl⟩⟩⟩
  by_cases hconf : i = .configure
  · subst hconf
    obtain ⟨g, aug, -, -, -, rfl⟩ := configureRule_ok hu
    exact ⟨fun _ => .inr (.inr ⟨.inl rfl, rfl, rfl, rfl⟩), fun hne => absurd rfl hne⟩
  by_cases hreset : i = .resetState
  · subst hreset
    cases hu
    exact ⟨fun _ => .inr (.inr ⟨.inr rfl, rfl, rfl, rfl⟩), fun hne => absurd rfl hne⟩
  have hkeeps := bodyRule_keepsAnalyzer (fun rd e => hcommit ⟨rd, e⟩) (fun rd rs1 e => hencode ⟨rd, rs1, e⟩)
    hconf hreset hu
  rw [hkeeps.rds, hkeeps.sel, hkeeps.wordcount, hkeeps.rdsOvf]
  exact ⟨by simp, by simp⟩

/-! ### The cells -/

/-- A cell of an array that command `i` may not store to is as before. -/
theorem exec_keeps_cell {i : Instr} {s t : State} {arr : CellArray} {k : Nat} (hinv : Inv s) (hwf : i.wellFormed = true)
    (hconf : i ≠ .configure) (hreset : i ≠ .resetState) (h : exec i s = .next t) (hx : arr.index < 16) (hk : k < 64)
    (hno : ∀ w, ¬ MayStore i s.active (arr, w)) : t.mem.read (arr.addr k) = s.mem.read (arr.addr k) := by
  obtain ⟨u, hvalid, hu, rfl⟩ | ⟨c, -, rfl⟩ := exec_next h
  · rw [recordFault_mem, succeed_mem]
    by_cases hnop : i = .nop
    · subst hnop
      cases hu
      rfl
    obtain ⟨l, hstores⟩ := bodyRule_stores hinv hwf hconf hreset hvalid hu
    have hcfg := hinv.cfg_ok (hvalid (needsConfig_iff.2 ⟨hnop, hconf, hreset⟩))
    exact hstores.read_eq hcfg hx hk hno
  · rw [recordFault_mem, raiseErr_mem]

/-- What CONFIGURE and RESET_STATE leave of the cells: the carries and the remainder cleared, all others as before. -/
theorem exec_reset_mem {i : Instr} {s t : State} (hi : i = .configure ∨ i = .resetState) (h : exec i s = .next t) :
    t.mem = s.mem ∨ t.mem = s.mem.clearCarries := by
  by_cases ht : t.errcode = 0
  · obtain ⟨u, x, hu, rfl⟩ := exec_success h ht
    rw [recordFault_mem, succeed_mem]
    obtain rfl | rfl := hi
    · obtain ⟨g, aug, -, -, -, rfl⟩ := configureRule_ok hu
      exact .inr rfl
    · cases hu
      exact .inr rfl
  · obtain ⟨c, x, rfl⟩ := exec_failure h ht
    exact .inl (by simp)

/-- No command changes a staging cell. -/
theorem exec_keeps_staging_cell {i : Instr} {s t : State} {arr : CellArray} {k : Nat} (hinv : Inv s)
    (hwf : i.wellFormed = true) (h : exec i s = .next t) (hx : arr.index < 16) (hk : k < 64)
    (hcarry : arr.isCarry = false) (hno : ∀ w, ¬ MayStore i s.active (arr, w)) :
    t.mem.read (arr.addr k) = s.mem.read (arr.addr k) := by
  by_cases hi : i = .configure ∨ i = .resetState
  · obtain hmem | hmem := exec_reset_mem hi h
    · rw [hmem]
    · rw [hmem, Memory.read_clearCarries, isCarryAddr_addr hx hk, hcarry, if_neg Bool.false_ne_true]
  · obtain ⟨hconf, hreset⟩ := not_or.1 hi
    exact exec_keeps_cell hinv hwf hconf hreset h hx hk hno

/-- Settles O16: the only words a command may store in a carry are those of the scrambling commands on the carries they
advance, and in the remainder that of DECODE, all in continuous mode. -/
theorem carriesChangeOnlyInContinuousMode : Obligations.CarriesChangeOnlyInContinuousMode := by
  intro i s t hinv hwf h
  constructor
  · intro x k hx hk hne
    by_contra hcontra
    simp only [not_or] at hcontra
    obtain ⟨hconf, hreset, hadvance⟩ := hcontra
    refine hne (exec_keeps_cell hinv hwf hconf hreset h hx hk fun w hw => ?_)
    cases hw with
    | carry hcont _ _ _ hi => exact hadvance ⟨hcont, hi⟩
  · intro k hk hne
    by_contra hcontra
    simp only [not_or] at hcontra
    obtain ⟨hconf, hreset, hdecode⟩ := hcontra
    refine hne (exec_keeps_cell hinv hwf hconf hreset h (arr := .descRem) (by decide) hk fun w hw => ?_)
    cases hw with
    | remainder hcont _ _ hi => exact hdecode ⟨hcont, hi⟩

/-! ### The configuration -/

/-- `t` has the staging registers of `s`. -/
def KeepsStaging (s t : State) : Prop :=
  t.cfgField = s.cfgField ∧ t.cfgCwlen = s.cfgCwlen ∧ t.cfgAuglen = s.cfgAuglen ∧ t.cfgDivlen = s.cfgDivlen ∧
    t.cfgNaug = s.cfgNaug ∧ t.cfgContinuous = s.cfgContinuous ∧ t.cfgAlphabet = s.cfgAlphabet ∧
    t.cfgMetricSel = s.cfgMetricSel

theorem keepsStaging_recordFault {s t : State} (x : Option Nat) (h : KeepsStaging s t) :
    KeepsStaging s (t.recordFault x) := by
  cases x with
  | none => exact h
  | some a => exact h

theorem exec_keepsStaging {i : Instr} {s t : State} (h : exec i s = .next t) : KeepsStaging s t := by
  by_cases ht : t.errcode = 0
  · obtain ⟨u, x, hu, rfl⟩ := exec_success h ht
    refine keepsStaging_recordFault x ?_
    rw [bodyRule_keepsInterface hu]
    exact ⟨rfl, rfl, rfl, rfl, rfl, rfl, rfl, rfl⟩
  · obtain ⟨c, x, rfl⟩ := exec_failure h ht
    exact keepsStaging_recordFault x ⟨rfl, rfl, rfl, rfl, rfl, rfl, rfl, rfl⟩

theorem exec_keeps_active {i : Instr} {s t : State} (hi : i ≠ .configure) (h : exec i s = .next t) :
    t.active = s.active := by
  by_cases ht : t.errcode = 0
  · obtain ⟨u, x, hu, rfl⟩ := exec_success h ht
    rw [bodyRule_keepsConfig hi hu, recordFault_active, succeed_active]
  · obtain ⟨c, x, rfl⟩ := exec_failure h ht
    rw [recordFault_active, raiseErr_active]

/-- Settles O17: no rule writes a staging register or stores in a staging array, and only CONFIGURE's writes the active
configuration. -/
theorem commandsKeepTheStaging : Obligations.CommandsKeepTheStaging := by
  intro i s t hinv hwf h
  obtain ⟨hfield, hcwlen, hauglen, hdivlen, hnaug, hcont, halphabet, hmetric⟩ := exec_keepsStaging h
  have hdiv (k : Nat) (hk : k < 64) :=
    exec_keeps_staging_cell hinv hwf h (arr := .divisorStg) (by decide) hk rfl (by rintro w ⟨⟩)
  have haug (x k : Nat) (hx : x < 16) (hk : k < 64) :=
    exec_keeps_staging_cell hinv hwf h (arr := .augStg x) hx hk rfl (by rintro w ⟨⟩)
  exact ⟨hfield, hcwlen, hauglen, hdivlen, hnaug, hcont, halphabet, hmetric, hdiv, haug,
    fun hi => exec_keeps_active hi h⟩

end Sys2Proof.Machine
end

section
/-! SUPPORT. The invariant: what the commands' stores keep of it, and what the host's writes do. -/

namespace Sys2Proof.Machine

/-! ### The parts of the invariant -/

/-- A state that differs from `s` in nothing the invariant speaks of but ERRCODE. -/
theorem Inv.of_eq {s t : State} (hinv : Inv s) (herr : t.errcode.toNat ≤ 0x11)
    (h : t = { t with
      mem := s.mem, wlen := s.wlen, active := s.active, cfgValid := s.cfgValid, candValid := s.candValid
      selPending := s.selPending, selValid := s.selValid }) : Inv t := by
  rw [h]
  exact ⟨hinv.mem_wf, hinv.mem_cells, hinv.len_le, hinv.cfg_ok, herr, hinv.carries, hinv.remainder, hinv.candidates,
    hinv.selection⟩

theorem Inv.succeed {s : State} (h : Inv s) : Inv s.succeed := h.of_eq (Nat.zero_le _) rfl

theorem Inv.raiseErr {s : State} (h : Inv s) (c : ErrCode) : Inv (s.raiseErr c) := h.of_eq (errCode_range c).2 rfl

theorem Inv.recordFault {s : State} (h : Inv s) (x : Option Nat) : Inv (s.recordFault x) := by
  cases x with
  | none => exact h
  | some a => exact h.of_eq h.errcode_le rfl

/-- What the invariant says of the symbol cells `m` of the state `s`. -/
structure CellsOk (s : State) (m : Memory) : Prop where
  wf : m.wf
  cells : ∀ c ∈ m, isCellAddr c.1 = true
  carry : ∀ arr : CellArray, arr.isCarry = true → arr.index < 16 → ∀ k, k < 64 →
    CarryCellOk s ((m.read (arr.addr k)).getD 0) k

theorem Inv.cellsOk {s : State} (h : Inv s) : CellsOk s s.mem where
  wf := h.mem_wf
  cells := h.mem_cells
  carry arr harr hx k hk := by
    cases arr with
    | descRem => exact h.remainder k hk
    | slotCarry x => exact h.carries x hx k hk
    | divisorStg | augStg x | wsym x | cand x => cases harr

/-- A write to a cell of the map adds no other address. -/
theorem isCellAddr_of_mem_write {m : Memory} {arr : CellArray} {k : Nat} {b : Byte} (hx : arr.index < 16) (hk : k < 64)
    (h : ∀ c ∈ m, isCellAddr c.1 = true) : ∀ c ∈ m.write (arr.addr k) b, isCellAddr c.1 = true := by
  intro c hc
  obtain rfl | hc := Memory.mem_write hc
  · exact isCellAddr_addr hx hk
  · exact h c hc

theorem isCellAddr_of_mem_storeWord {a : Nat} {w : Word} {m : Memory}
    (ha : ∀ j, j < w.length → isCellAddr (a + 4 * j) = true)
    (h : ∀ c ∈ m, isCellAddr c.1 = true) : ∀ c ∈ storeWord m a w, isCellAddr c.1 = true := by
  induction w generalizing a m with
  | nil => exact h
  | cons x w ih =>
    refine ih (fun j hj => ?_) fun c hc => ?_
    · rw [show a + 4 + 4 * j = a + 4 * (j + 1) by omega]
      exact ha (j + 1) (Nat.succ_lt_succ hj)
    · obtain rfl | hc := Memory.mem_write hc
      · exact ha 0 (Nat.succ_pos _)
      · exact h c hc

/-- A word a command may store in a carry or in the remainder is one that continuous mode gives it. -/
theorem MayStore.carryWord {i : Instr} {A : ActiveConfig} {e : CellArray × Word} (h : MayStore i A e)
    (harr : e.1.isCarry = true) : A.cont = true ∧ e.2.length = A.d - 1 ∧ ValidWord A.q e.2 := by
  cases h with
  | reg | candidate => cases harr
  | carry hcont _ hlen hw => exact ⟨hcont, hlen, hw⟩
  | remainder hcont hlen hw => exact ⟨hcont, hlen, hw⟩

/-- The cell of a carry after a store of a command. -/
theorem carryCellOk_storeWord {i : Instr} {s : State} {m : Memory} {e : CellArray × Word} {arr : CellArray} {k : Nat}
    (hv : s.cfgValid = true) (hcfg : CfgOk s.active) (hmay : MayStore i s.active e) (harr : arr.isCarry = true)
    (hx : arr.index < 16) (hk : k < 64) (h : CarryCellOk s ((m.read (arr.addr k)).getD 0) k) :
    CarryCellOk s (((storeWord m e.1.base e.2).read (arr.addr k)).getD 0) k := by
  obtain ⟨hx', hlen⟩ := hmay.fits hcfg
  by_cases hin : StoredIn e.1 e.2.length (arr.addr k)
  · obtain ⟨j, hj, haddr⟩ := hin
    obtain ⟨rfl, rfl⟩ := addr_injective hx hx' hk (hj.trans_le hlen) haddr
    obtain ⟨hcont, hwlen, hw⟩ := hmay.carryWord harr
    have hread : (storeWord m e.1.base e.2).read (e.1.addr k) = some (BitVec.ofNat 8 (e.2.getD k 0)) :=
      read_storeWord_inside m e.1.base e.2 k hj
    rw [hread, Option.getD_some]
    refine .inr ⟨hv, hcont, hwlen ▸ hj, ?_⟩
    rw [BitVec.toNat_ofNat, List.getD_eq_getElem _ _ hj]
    exact (Nat.mod_le _ _).trans_lt (hw _ (List.getElem_mem hj))
  · rwa [read_storeWord_of_not_storedIn m hin]

theorem CellsOk.storeWord {i : Instr} {s : State} {m : Memory} {e : CellArray × Word} (h : CellsOk s m)
    (hv : s.cfgValid = true) (hcfg : CfgOk s.active) (hmay : MayStore i s.active e) :
    CellsOk s (storeWord m e.1.base e.2) where
  wf := storeWord_wf _ _ h.wf
  cells := by
    obtain ⟨hx, hlen⟩ := hmay.fits hcfg
    exact isCellAddr_of_mem_storeWord (fun j hj => isCellAddr_addr hx (hj.trans_le hlen)) h.cells
  carry arr harr hx k hk := carryCellOk_storeWord hv hcfg hmay harr hx hk (h.carry arr harr hx k hk)

/-- The stores of a command keep what the invariant says of the cells. -/
theorem CellsOk.storeAll {i : Instr} {s : State} {l : List (CellArray × Word)} {m : Memory} (hv : s.cfgValid = true)
    (hcfg : CfgOk s.active) (hmay : ∀ e ∈ l, MayStore i s.active e) (h : CellsOk s m) : CellsOk s (storeAll m l) := by
  induction l generalizing m with
  | nil => exact h
  | cons e l ih =>
    exact ih (fun e' he' => hmay e' (List.mem_cons_of_mem _ he')) (h.storeWord hv hcfg (hmay e List.mem_cons_self))

/-! ### The candidates and the selection -/

theorem CandComplete.any {s : State} (h : CandComplete s) {x : Nat} (hx : x < s.active.N) :
    (s.candWord x).any (fun w => w.all (· < s.active.q)) = true := by
  obtain ⟨hword, -, hvalid⟩ := h x hx
  rw [hword, Option.any_some, List.all_eq_true]
  exact fun y hy => decide_eq_true (hvalid y hy)

/-- Candidates whose cells are as before are complete as before. -/
theorem CandComplete.of_read {s t : State} (h : CandComplete s) (hactive : t.active = s.active)
    (hn : s.active.n ≤ 64) (hread : ∀ x, x < s.active.N → ∀ k, k < 64 →
      t.mem.read ((CellArray.cand x).addr k) = s.mem.read ((CellArray.cand x).addr k)) : CandComplete t := by
  refine candComplete_of fun x hx => ?_
  rw [hactive] at hx
  obtain ⟨hword, -, hvalid⟩ := h x hx
  refine ⟨s.candOf x, ?_, hactive ▸ hvalid⟩
  rw [← hword, State.candWord, hactive]
  exact readWord_congr _ fun j hj => hread x hx j (hj.trans_le hn)

/-- What a rule leaves of the two valid flags: a candidate set is pending where the rule is that of CANDIDATES or the
set was pending and is kept, and a pending selection names a slot of a pending set. -/
structure Pending (i : Instr) (s u : State) : Prop where
  cand : u.candValid = true → (∃ rs1, i = .candidates rs1) ∨ ¬ FillsCandidates i ∧ s.candValid = true
  sel : u.selValid = true → u.candValid = true ∧ u.selPending.toNat < s.active.N

theorem Pending.of_kept {i : Instr} {s u : State} (hinv : Inv s) (hi : ¬ FillsCandidates i)
    (hc : u.candValid = s.candValid) (hs : u.selValid = s.selValid) (hp : u.selPending = s.selPending) : Pending i s u := by
  refine ⟨fun hcand => .inr ⟨hi, hc ▸ hcand⟩, ?_⟩
  rw [hc, hs, hp]
  exact hinv.selection

theorem Pending.of_cleared {i : Instr} {s u : State} (hc : u.candValid = false) (hs : u.selValid = false) :
    Pending i s u := ⟨fun h => by simp [hc] at h, fun h => by simp [hs] at h⟩

theorem pending_setRegCarry {i : Instr} {s u : State} (hinv : Inv s) {rd : Nat} {w r : Word} {arr : CellArray}
    (hi : ¬ FillsCandidates i) (hu : u = s.setRegCarry rd w arr r) : Pending i s u := by
  rw [hu, setRegCarry_eq]
  exact .of_kept hinv hi rfl rfl rfl

theorem bodyRule_pending {i : Instr} {s u : State} (hinv : Inv s) (hconf : i ≠ .configure) (hreset : i ≠ .resetState)
    (hcfg : CfgOk s.active) (h : (bodyRule s i).result = .ok u) : Pending i s u := by
  cases i with
  | nop => cases h; exact .of_kept hinv (by simp [FillsCandidates]) rfl rfl rfl
  | configure => exact absurd rfl hconf
  | resetState => exact absurd rfl hreset
  | wadd rd rs1 rs2 | wmul rd rs1 rs2 =>
    obtain ⟨-, a, b, -, -, rfl⟩ := elementwise_ok_iff.1 h
    exact .of_kept hinv (by simp [FillsCandidates]) rfl rfl rfl
  | pmul rd rs1 rs2 =>
    obtain ⟨-, -, -, a, b, -, -, rfl⟩ := pmulRule_ok h
    exact .of_kept hinv (by simp [FillsCandidates]) rfl rfl rfl
  | pdivmod rd rd2 rs1 rs2 =>
    obtain ⟨-, -, a, b, -, -, -, rfl⟩ := pdivmodRule_ok h
    exact .of_kept hinv (by simp [FillsCandidates]) rfl rfl rfl
  | scramble rd rs1 slot =>
    obtain ⟨-, p, -, hu⟩ := scrambleRule_ok h
    exact pending_setRegCarry hinv (by simp [FillsCandidates]) hu
  | candidates rs1 =>
    obtain ⟨p, -, rfl⟩ := candidatesRule_ok h
    exact ⟨fun _ => .inl ⟨rs1, rfl⟩, fun hsel => by cases hsel⟩
  | select =>
    obtain ⟨hcand, -⟩ := selectRule_ok h
    have hwin := (winner_spec (s := s) hcfg.N_pos).1
    have := hcfg.N_le
    rw [bodyRule, selectRule_eq hcfg.N_pos hcand (hinv.candComplete hcand)] at h
    cases h
    refine ⟨fun _ => .inr ⟨by simp [FillsCandidates], hcand⟩, fun _ => ⟨hcand, ?_⟩⟩
    exact (Nat.mod_le _ _).trans_lt hwin
  | commit rd =>
    obtain ⟨-, c, -, rfl⟩ := commitRule_ok h
    exact .of_cleared rfl rfl
  | encode rd rs1 =>
    obtain ⟨s1, -, s2, -, h3⟩ := encodeRule_ok_iff.1 h
    obtain ⟨-, c, -, rfl⟩ := commitRule_ok h3
    exact .of_cleared rfl rfl
  | decode rd rs1 =>
    obtain ⟨-, c, -, -, hu⟩ := decodeRule_ok h
    exact pending_setRegCarry hinv (by simp [FillsCandidates]) hu

/-- A candidate set that is pending after a rule is complete. -/
theorem bodyRule_candComplete {i : Instr} {s u : State} {l : List (CellArray × Word)} (hinv : Inv s)
    (hwf : i.wellFormed = true) (hconf : i ≠ .configure) (hreset : i ≠ .resetState) (hcfg : CfgOk s.active)
    (hstores : Stores i s u l) (h : (bodyRule s i).result = .ok u) (hcand : u.candValid = true) : CandComplete u := by
  obtain ⟨rs1, rfl⟩ | ⟨hfill, hcand⟩ := (bodyRule_pending hinv hconf hreset hcfg h).cand hcand
  · simp only [Instr.wellFormed, isReg_iff] at hwf
    obtain ⟨p, hp, -⟩ := candidatesRule_ok h
    obtain ⟨hp, hlen⟩ := holds_of_payload hwf hp
    rw [bodyRule, candidatesRule_eq hp hlen] at h
    cases h
    exact candComplete_withCandidates hcfg hlen hp.valid
  · have hactive : u.active = s.active := by rw [bodyRule_keepsConfig hconf h]
    refine (hinv.candComplete hcand).of_read hactive hcfg.n_le fun x hx k hk => ?_
    refine hstores.read_eq hcfg (arr := .cand x) (hx.trans_le hcfg.N_le) hk fun w hw => ?_
    cases hw with
    | candidate _ _ hi => exact hfill hi

/-! ### The commands -/

/-- Every command but CONFIGURE and RESET_STATE keeps the invariant, up to the end that `complete` gives it. -/
theorem bodyRule_inv {i : Instr} {s u : State} (hinv : Inv s) (hwf : i.wellFormed = true) (hconf : i ≠ .configure)
    (hreset : i ≠ .resetState) (hvalid : needsConfig i = true → s.cfgValid = true) (h : (bodyRule s i).result = .ok u) :
    Inv u := by
  by_cases hnop : i = .nop
  · subst hnop
    cases h
    exact hinv
  have hv := hvalid (needsConfig_iff.2 ⟨hnop, hconf, hreset⟩)
  have hcfg := hinv.cfg_ok hv
  obtain ⟨l, hstores⟩ := bodyRule_stores hinv hwf hconf hreset hvalid h
  have hcells := hstores.mem ▸ hinv.cellsOk.storeAll hv hcfg hstores.may
  have hpending := bodyRule_pending hinv hconf hreset hcfg h
  have hcomplete := bodyRule_candComplete hinv hwf hconf hreset hcfg hstores h
  have hkeeps := bodyRule_keepsConfig hconf h
  have hactive : u.active = s.active := by rw [hkeeps]
  have hvalid' : u.cfgValid = s.cfgValid := by rw [hkeeps]
  have herr : u.errcode = s.errcode := by rw [hkeeps]
  have hcarry (b : Byte) (k : Nat) (hb : CarryCellOk s b k) : CarryCellOk u b k := by rwa [CarryCellOk, hvalid', hactive]
  refine ⟨hcells.wf, hcells.cells, hstores.len, fun _ => hactive ▸ hcfg, herr ▸ hinv.errcode_le, ?_, ?_, ?_, ?_⟩
  · exact fun x hx k hk => hcarry _ _ (hcells.carry (.slotCarry x) rfl hx k hk)
  · exact fun k hk => hcarry _ _ (hcells.carry .descRem rfl (by decide) k hk)
  · exact fun hcand => ⟨hvalid'.trans hv, fun x hx => (hcomplete hcand).any hx⟩
  · rw [hactive]
    exact hpending.sel

/-- The running-state reset under a legal configuration (44_control.md R158). -/
theorem inv_resetRunning {s t : State} (hinv : Inv s) (hmem : t.mem = s.mem) (hwlen : t.wlen = s.wlen)
    (herr : t.errcode = s.errcode) (hcfg : t.cfgValid = true → CfgOk t.active) : Inv t.resetRunning where
  mem_wf := Memory.clearCarries_wf (hmem ▸ hinv.mem_wf)
  mem_cells c hc := hinv.mem_cells c (hmem ▸ (List.mem_filter.1 hc).1)
  len_le i hi := by
    rw [State.len, resetRunning_wlen, hwlen]
    exact hinv.len_le i hi
  cfg_ok := hcfg
  errcode_le := herr ▸ hinv.errcode_le
  carries x hx k hk := by
    rw [resetRunning_mem, Memory.read_clearCarries_carryCell _ (arr := .slotCarry x) rfl hx hk]
    exact .inl rfl
  remainder k hk := by
    rw [resetRunning_mem, Memory.read_clearCarries_carryCell _ rfl (by decide) hk]
    exact .inl rfl
  candidates h := by cases h
  selection h := by cases h

/-- A word that passed the check of its symbols. -/
theorem length_valid_of_checkSyms_ok {q : Nat} {s : State} {a k : Nat} {w : Word}
    (h : (checkSyms q s a k).result = .ok w) : w.length = k ∧ ValidWord q w := by
  obtain ⟨rfl, hw⟩ := checkSyms_ok_iff.1 h
  exact ⟨seenWord_length .., hw⟩

/-- What CONFIGURE has checked is a legal configuration (44_control.md R156). -/
theorem cfgOk_of_configure {s : State} {g : Word} {aug : List Word}
    (hnum : (configureNumbers s.cfgField.toNat s.cfgCwlen.toNat s.cfgAuglen.toNat s.cfgDivlen.toNat s.cfgNaug.toNat
      s.cfgAlphabet.toNat s.cfgMetricSel.toNat).result = .ok ())
    (hg : (checkSyms s.cfgField.toNat s CellArray.divisorStg.base s.cfgDivlen.toNat).result = .ok g)
    (haug : (gather (fun slot => checkSyms s.cfgField.toNat s (CellArray.augStg slot).base s.cfgAuglen.toNat)
      (List.range s.cfgNaug.toNat)).result = .ok aug) : CfgOk (s.latchConfig g aug).active := by
  obtain ⟨hm, hmn, hd, hq, hq', hpp, -, hmetric, hn, hd', hN, hN'⟩ := configureNumbers_ok hnum
  obtain ⟨hglen, hgv⟩ := length_valid_of_checkSyms_ok hg
  have hall := gather_ok_iff.1 haug
  refine ⟨hm, hmn, hn, hd, hd', hq, hq', hpp, hN, hN', hmetric, hglen, hgv, ?_, fun w hw => ?_⟩
  · exact hall.length_eq.symm.trans List.length_range
  · obtain ⟨j, hj, rfl⟩ := List.mem_iff_getElem.1 hw
    exact length_valid_of_checkSyms_ok (hall.get (hall.length_eq ▸ hj) hj)

/-- Every command keeps the invariant. -/
theorem exec_inv {i : Instr} {s t : State} (hinv : Inv s) (hwf : i.wellFormed = true) (h : exec i s = .next t) :
    Inv t := by
  obtain ⟨u, hvalid, hu, rfl⟩ | ⟨c, -, rfl⟩ := exec_next h
  · refine (Inv.succeed ?_).recordFault _
    by_cases hconf : i = .configure
    · subst hconf
      obtain ⟨g, aug, hnum, hg, haug, rfl⟩ := configureRule_ok hu
      exact inv_resetRunning hinv rfl rfl rfl fun _ => cfgOk_of_configure hnum hg haug
    by_cases hreset : i = .resetState
    · subst hreset
      cases hu
      exact inv_resetRunning hinv rfl rfl rfl hinv.cfg_ok
    exact bodyRule_inv hinv hwf hconf hreset hvalid hu
  · exact (hinv.raiseErr c).recordFault _

/-! ### The host -/

/-- Is the location a register below `0x0080`, or reserved? -/
def Loc.isLow : Loc → Bool
  | .wlen _ => false
  | .cell _ _ => false
  | _ => true

theorem regLoc_isLow : ∀ a < 0x0080, (regLoc a).isLow = true := by decide

theorem index_lt_of_slot_lt {x : Nat} (h : x < 16) : (CellArray.augStg x).index < 16 ∧ (CellArray.wsym x).index < 16 ∧
    (CellArray.slotCarry x).index < 16 ∧ (CellArray.cand x).index < 16 := ⟨h, h, h, h⟩

/-- The address map answers only cells that exist (20_memory.md R52). -/
theorem locOf_cell {a : Nat} {arr : CellArray} {k : Nat} (h : locOf a = .cell arr k) : arr.index < 16 ∧ k < 64 := by
  unfold locOf at h
  split_ifs at h
  · have hlow := regLoc_isLow a (by assumption)
    rw [h] at hlow
    cases hlow
  all_goals obtain ⟨rfl, rfl⟩ := Loc.cell.inj h
  · exact ⟨by decide, by omega⟩
  · exact ⟨by decide, by omega⟩
  · exact ⟨(index_lt_of_slot_lt (by omega)).1, by omega⟩
  · exact ⟨(index_lt_of_slot_lt (by omega)).2.1, by omega⟩
  · exact ⟨(index_lt_of_slot_lt (by omega)).2.2.1, by omega⟩
  · exact ⟨(index_lt_of_slot_lt (by omega)).2.2.2, by omega⟩

/-- A host write to a cell of a writable array. -/
theorem Inv.writeCell {s : State} {arr : CellArray} {k : Nat} (hinv : Inv s) (b : Byte) (hx : arr.index < 16) (hk : k < 64)
    (hwritable : arr.hostWritable = true) : Inv { s with mem := s.mem.write (arr.addr k) b } := by
  have hother {arr' : CellArray} {j : Nat} (hx' : arr'.index < 16) (hj : j < 64) (hne : arr'.hostWritable = false) :
      (s.mem.write (arr.addr k) b).read (arr'.addr j) = s.mem.read (arr'.addr j) := by
    refine Memory.read_write_other _ _ fun haddr => ?_
    obtain ⟨rfl, -⟩ := addr_injective hx' hx hj hk haddr
    simp [hwritable] at hne
  refine ⟨Memory.write_wf _ _ hinv.mem_wf, isCellAddr_of_mem_write hx hk hinv.mem_cells, hinv.len_le, hinv.cfg_ok,
    hinv.errcode_le, fun x hx' j hj => ?_, fun j hj => ?_, fun hcand => ?_, hinv.selection⟩
  · rw [hother (arr' := .slotCarry x) hx' hj rfl]
    exact hinv.carries x hx' j hj
  · rw [hother (arr' := .descRem) (by decide) hj rfl]
    exact hinv.remainder j hj
  · have hcfg := hinv.cfg_ok (hinv.candidates hcand).1
    refine ⟨(hinv.candidates hcand).1, fun x hx' => CandComplete.any ?_ hx'⟩
    exact (hinv.candComplete hcand).of_read rfl hcfg.n_le fun y hy j hj =>
      hother (arr' := .cand y) (hy.trans_le hcfg.N_le) hj rfl

theorem locOf_wlen_lt {a i : Nat} (h : locOf a = .wlen i) : i < 16 := by
  unfold locOf at h
  split_ifs at h
  · have hlow := regLoc_isLow a (by assumption)
    rw [h] at hlow
    cases hlow
  · cases h
    omega

/-- A host write of a length (10_state.md R23). -/
theorem Inv.writeLen {s : State} {i : Nat} (hinv : Inv s) (hi : i < 16) (v : Word32) : Inv (s.writeLen i v) := by
  unfold State.writeLen
  dsimp only
  split
  · rename_i hle
    refine ⟨hinv.mem_wf, hinv.mem_cells, fun j hj => ?_, hinv.cfg_ok, hinv.errcode_le, hinv.carries, hinv.remainder,
      hinv.candidates, hinv.selection⟩
    rw [len_of_wlen_setIfInBounds rfl hi]
    split
    · exact hle
    · exact hinv.len_le j hj
  · exact hinv

/-- A host write keeps the invariant. -/
theorem Inv.memWrite {s : State} (hinv : Inv s) (a : Addr) (v : Word32) : Inv (s.memWrite a v) := by
  suffices h : Inv (s.writeLoc v (locOf a.toNat)) from h.of_eq h.errcode_le rfl
  cases hloc : locOf a.toNat with
  | wlen i => exact hinv.writeLen (locOf_wlen_lt hloc) v
  | cell arr k =>
    obtain ⟨hx, hk⟩ := locOf_cell hloc
    by_cases hwritable : arr.hostWritable = true
    · rw [State.writeLoc, if_pos hwritable]
      exact hinv.writeCell _ hx hk hwritable
    · rwa [State.writeLoc, if_neg hwritable]
  | _ => exact hinv.of_eq hinv.errcode_le rfl

end Sys2Proof.Machine
end

section
/-! PROOFS. The invariant holds at reset and every step keeps it. -/

namespace Sys2Proof.Machine

/-- Settles O58: no cell is listed, every length is 0 and no flag is set. -/
theorem resetMeetsTheInvariant : Obligations.ResetMeetsTheInvariant where
  mem_wf := reset_mem_wf
  mem_cells c hc := by cases hc
  len_le i hi := (reset_len hi).trans_le (Nat.zero_le _)
  cfg_ok h := by cases h
  errcode_le := Nat.zero_le _
  carries x hx k hk := by
    rw [reset_read (arr := .slotCarry x) hx hk]
    exact .inl rfl
  remainder k hk := by
    rw [reset_read (arr := .descRem) (by decide) hk]
    exact .inl rfl
  candidates h := by cases h
  selection h := by cases h

/-- Every host operation keeps the invariant. -/
theorem hostStep_inv {op : HostOp} {s t : State} (hinv : Inv s) (h : hostStep op s = .next t) : Inv t := by
  have hread (a : Addr) : Inv (s.recordRead a) := hinv.of_eq hinv.errcode_le rfl
  obtain ⟨-, rfl⟩ | ⟨a, -, -, -, rfl⟩ | ⟨a, v, -, -, -, rfl⟩ | ⟨-, rfl⟩ | ⟨i, -, -, cells, rfl⟩ := hostStep_next h
  · exact resetMeetsTheInvariant.of_eq (Nat.zero_le _) rfl
  · exact hread a
  · exact hinv.memWrite a v
  · split
    · exact hinv.of_eq hinv.errcode_le rfl
    · exact hread _
  · exact hinv.of_eq hinv.errcode_le rfl

/-- Settles O59, by the kinds of a step: a host operation reads, writes what the invariant allows or resets; a command's
rule stores only what `MayStore` lists, or resets the running state under a legal configuration; an error writes the
error record. -/
theorem everyStepKeepsTheInvariant : Obligations.EveryStepKeepsTheInvariant := by
  intro s t hinv h
  obtain ⟨-, -, rfl⟩ | ⟨op, u, hturn, hop⟩ | ⟨-, i, hi, hexec⟩ | ⟨-, -, rfl⟩ := step_next h
  · exact hinv
  · obtain ⟨rest, k, -, rfl⟩ := turn_host hturn
    exact hostStep_inv (hinv.of_eq (t := { s with host := rest, hostTurns := k }) hinv.errcode_le rfl) hop
  · exact exec_inv hinv (decodedWordsReencode _ i hi).1 hexec
  · exact hinv.raiseErr _

end Sys2Proof.Machine
end

section
/-! SUPPORT. The carries after a command: the one each slot advances to, and when the carries stay equal
(41_scrambler.md R124 to R126). -/

namespace Sys2Proof.Machine

/-- What an array holds after several words are stored to different arrays, its own among them. -/
theorem read_storeAll_of_mem {m : Memory} {l : List (CellArray × Word)} {arr : CellArray} {w : Word} {k : Nat}
    (hfit : StoresFit l) (hnodup : (l.map Prod.fst).Nodup) (hmem : (arr, w) ∈ l) (hk : k < 64) :
    (storeAll m l).read (arr.addr k) =
      if k < w.length then some (BitVec.ofNat 8 (w.getD k 0)) else m.read (arr.addr k) := by
  split
  · exact read_storeAll_inside hfit hnodup hmem (by assumption)
  · rename_i hout
    refine read_storeAll_outside fun e he => ?_
    rintro ⟨j, hj, haddr⟩
    obtain ⟨hx, hlen⟩ := hfit e he
    obtain ⟨harr, rfl⟩ := addr_injective (hfit _ hmem).1 hx hk (hj.trans_le hlen) haddr
    obtain rfl := List.inj_on_of_nodup_map hnodup he hmem harr.symm
    exact hout hj

theorem candOf_length_le (s : State) (x : Nat) : (s.candOf x).length ≤ s.active.n := by
  unfold State.candOf
  cases h : s.candWord x with
  | none => exact Nat.zero_le _
  | some w => exact (readWord_length h).le

/-- COMMIT stores in its register only. -/
theorem read_committed_carry {s : State} {rd k : Nat} {arr : CellArray} (hn : s.active.n ≤ 64) (hrd : rd < 16)
    (hcarry : arr.isCarry = true) (hx : arr.index < 16) (hk : k < 64) :
    (s.committed rd).mem.read (arr.addr k) = s.mem.read (arr.addr k) := by
  refine read_storeWord_of_not_storedIn _ (not_storedIn_of_ne (arr := .wsym rd) hrd hx ?_ hk ?_)
  · exact (candOf_length_le _ _).trans hn
  · rintro rfl
    cases hcarry

section
variable {s u : State} {i : Instr} {x : Nat} (hcfg : CfgOk s.active)
include hcfg

/-- The carry cells of slot `x` hold the next carry of `x` on the payload `p`, and above it what they held. -/
def CarryAdvanced (s u : State) (p : Word) (x : Nat) : Prop :=
  ∀ k, k < 64 → u.mem.read ((CellArray.slotCarry x).addr k) =
    if k < s.active.d - 1 then some (BitVec.ofNat 8 ((s.scramble p x).2.getD k 0))
    else s.mem.read ((CellArray.slotCarry x).addr k)

theorem carryAdvanced_scramble {rd : Nat} {p w : Word} (hcont : s.active.cont = true) (hx : x < s.active.N) (hrd : rd < 16)
    (hw : w.length ≤ 64) (hlen : p.length = s.active.n - s.active.m) (hp : ValidWord s.active.q p) :
    CarryAdvanced s (s.setRegCarry rd w (.slotCarry x) (s.scramble p x).2) p x := by
  obtain ⟨hclen, -⟩ := scramble_carry hcfg hcont hx hlen hp
  have hd := hcfg.d_le
  intro k hk
  rw [setRegCarry_mem, read_storeAll_of_mem (w := (s.scramble p x).2)
    (setRegCarry_fit s (arr := .slotCarry x) hrd hw (hx.trans_le hcfg.N_le) fun _ => hclen.trans_le (by omega))
    (setRegCarry_nodup s rfl) (by rw [if_pos hcont]; simp) hk, hclen]

theorem carryAdvanced_candidates {p : Word} (hcont : s.active.cont = true) (hx : x < s.active.N)
    (hlen : p.length = s.active.n - s.active.m) (hp : ValidWord s.active.q p) :
    CarryAdvanced s (s.withCandidates p) p x := by
  obtain ⟨hclen, -⟩ := scramble_carry hcfg hcont hx hlen hp
  intro k hk
  rw [State.withCandidates, read_storeAll_of_mem (slotStores_fit hcfg hlen hp) (slotStores_nodup _ _ _)
    (mem_slotStores.2 ⟨x, hx, .inr ⟨hcont, rfl⟩⟩) hk, hclen]

theorem carryAdvanced_encode {rd : Nat} {p : Word} (hcont : s.active.cont = true) (hx : x < s.active.N) (hrd : rd < 16)
    (hlen : p.length = s.active.n - s.active.m) (hp : ValidWord s.active.q p) :
    CarryAdvanced s ((s.withCandidates p).selected.committed rd) p x := by
  intro k hk
  rw [read_committed_carry (s := (s.withCandidates p).selected) (arr := .slotCarry x) hcfg.n_le hrd rfl
    (hx.trans_le hcfg.N_le) hk]
  exact carryAdvanced_candidates hcfg hcont hx hlen hp k hk

/-- In continuous mode a command that advances slot `x` leaves there the next carry on its payload. -/
theorem bodyRule_carryAdvanced (hcont : s.active.cont = true) (hx : x < s.active.N) (hwf : i.wellFormed = true)
    (hi : Advances i x) (h : (bodyRule s i).result = .ok u) :
    ∃ rs1 p, payloadReg i = some rs1 ∧ Holds s rs1 p ∧ p.length = s.active.n - s.active.m ∧ CarryAdvanced s u p x := by
  have hn := hcfg.n_le
  obtain ⟨rd, rs1, rfl⟩ | ⟨rs1, rfl⟩ | ⟨rd, rs1, rfl⟩ := hi
  · simp only [Instr.wellFormed, Bool.and_eq_true, isReg_iff, isImm8_iff] at hwf
    obtain ⟨⟨hrd, hrs1⟩, -⟩ := hwf
    obtain ⟨-, p, hp, rfl⟩ := scrambleRule_ok h
    obtain ⟨hp, hlen⟩ := holds_of_payload hrs1 hp
    have hw := (scramble_codeword hcfg hx hlen hp.valid).1.trans_le hn
    exact ⟨rs1, p, rfl, hp, hlen, carryAdvanced_scramble hcfg hcont hx hrd hw hlen hp.valid⟩
  · simp only [Instr.wellFormed, isReg_iff] at hwf
    obtain ⟨p, hp, -⟩ := candidatesRule_ok h
    obtain ⟨hp, hlen⟩ := holds_of_payload hwf hp
    rw [bodyRule, candidatesRule_eq hp hlen] at h
    cases h
    exact ⟨rs1, p, rfl, hp, hlen, carryAdvanced_candidates hcfg hcont hx hlen hp.valid⟩
  · simp only [Instr.wellFormed, Bool.and_eq_true, isReg_iff] at hwf
    obtain ⟨hrd, hrs1⟩ := hwf
    obtain ⟨s1, h1, -⟩ := encodeRule_ok_iff.1 h
    obtain ⟨p, hp, -⟩ := candidatesRule_ok h1
    obtain ⟨hp, hlen⟩ := holds_of_payload hrs1 hp
    rw [(bodyRule_encode (rd := rd) hcfg hp hlen).2.2] at h
    cases h
    exact ⟨rs1, p, rfl, hp, hlen, carryAdvanced_encode hcfg hcont hx hrd hlen hp.valid⟩

/-- The slot's carry after it advanced. -/
theorem CarryAdvanced.carry_eq {p : Word} (h : CarryAdvanced s u p x) (hactive : u.active = s.active)
    (hcont : s.active.cont = true) (hx : x < s.active.N) (hlen : p.length = s.active.n - s.active.m)
    (hp : ValidWord s.active.q p) : u.carry x = (s.scramble p x).2 := by
  obtain ⟨hclen, hcv⟩ := scramble_carry hcfg hcont hx hlen hp
  have hd := hcfg.d_le
  have := loadCarry_eq_of_read (m := u.mem) (arr := .slotCarry x) (fun y hy => (hcv y hy).trans_le hcfg.q_le)
    fun j hj => by
      rw [hclen] at hj
      rw [h j (by omega), if_pos hj]
  rwa [hclen, ← hactive] at this

end

/-- A word that the scrambling function makes depends on its slot's augmenting word and carry only. -/
theorem scramble_congr {s s' : State} {x : Nat} (p : Word) (hactive : s'.active = s.active) (hd : s.active.d ≤ 64)
    (hcarry : ∀ k, k < 64 → s'.mem.read ((CellArray.slotCarry x).addr k) = s.mem.read ((CellArray.slotCarry x).addr k)) :
    s'.scramble p x = s.scramble p x := by
  have hword : s'.carry x = s.carry x := by
    rw [State.carry, hactive]
    exact loadCarry_congr fun j hj => hcarry j (by omega)
  rw [State.scramble, hactive, State.augWord, hactive, hword]
  rfl

/-- The next carry is what the payload leaves beyond the codeword: with `d - 1 ≤ n - m` the augmenting word does not
reach it, and the old carry is used up. -/
theorem scramble_carry_eq {s : State} {p : Word} {x y : Nat} (hcfg : CfgOk s.active) (hcont : s.active.cont = true)
    (hd : s.active.d - 1 ≤ s.active.n - s.active.m) (hlen : p.length = s.active.n - s.active.m)
    (hx : x < s.active.N) (hy : y < s.active.N) (hp : ValidWord s.active.q p) :
    (s.scramble p x).2 = (s.scramble p y).2 := by
  have hm := hcfg.m_lt_n
  have hd2 := hcfg.d_ge
  have hg := hcfg.g_len
  obtain ⟨hxaug, -⟩ := augWord_spec hcfg hx
  obtain ⟨hyaug, -⟩ := augWord_spec hcfg hy
  obtain ⟨hxlen, -⟩ := scramble_carry hcfg hcont hx hlen hp
  obtain ⟨hylen, -⟩ := scramble_carry hcfg hcont hy hlen hp
  have hcarry (z : Nat) : (s.carry z).length = s.active.d - 1 := loadCarry_length _ _ _
  have hfar (a : Word) (ha : a.length = s.active.m) (j : Nat) (hj : s.active.m ≤ j) :
      (a ++ p).getD j 0 = p.getD (j - s.active.m) 0 := by
    rw [List.getD_append_right _ _ _ _ (by omega), ha]
  have hsymbol (z : Nat) (hz : (s.augWord z).length = s.active.m) (k : Nat) (hk : k < s.active.d - 1) :
      (s.scramble p z).2.getD k 0 = (∑ j ∈ Finset.range (s.active.n + k + 1),
        (if s.active.m ≤ j then p.getD (j - s.active.m) 0 else 0) * s.active.g.getD (s.active.n + k - j) 0) %
          s.active.q := by
    rw [State.scramble, scr_eq, hcont, if_pos rfl]
    dsimp only
    rw [getD_take hk, getD_drop, scrFull_getD _ _ _ _ _ (by rw [List.length_append]; omega),
      if_neg (by rw [hcarry]; omega), Nat.add_zero]
    congr 1
    refine Finset.sum_congr rfl fun j hj => ?_
    split
    · rw [hfar _ hz j (by assumption)]
    · rw [getD_of_length_le (w := s.active.g) (by omega), Nat.mul_zero, Nat.mul_zero]
  rw [eq_map_range hxlen fun k hk => hsymbol x hxaug k hk, eq_map_range hylen fun k hk => hsymbol y hyaug k hk]

end Sys2Proof.Machine
end

section
/-! PROOFS. The carries are isolated, and equal without SCRAMBLE (41_scrambler.md R124, R125). -/

namespace Sys2Proof.Machine

/-- A carry cell after CONFIGURE or RESET_STATE that succeeds is 0. -/
theorem exec_reset_carry {i : Instr} {s t : State} {arr : CellArray} {k : Nat} (hi : i = .configure ∨ i = .resetState)
    (h : exec i s = .next t) (ht : t.errcode = 0) (harr : arr.isCarry = true) (hx : arr.index < 16) (hk : k < 64) :
    t.mem.read (arr.addr k) = some 0 := by
  obtain ⟨u, z, hu, rfl⟩ := exec_success h ht
  rw [recordFault_mem, succeed_mem]
  obtain rfl | rfl := hi
  · obtain ⟨g, aug, -, -, -, rfl⟩ := configureRule_ok hu
    exact Memory.read_clearCarries_carryCell _ harr hx hk
  · cases hu
    exact Memory.read_clearCarries_carryCell _ harr hx hk

/-- A command that fails leaves every cell. -/
theorem exec_failure_mem {i : Instr} {s t : State} (h : exec i s = .next t) (ht : t.errcode ≠ 0) : t.mem = s.mem := by
  obtain ⟨c, z, rfl⟩ := exec_failure h ht
  rw [recordFault_mem, raiseErr_mem]

/-- What a command that succeeds does to the carry of a slot: it clears it, advances it or leaves it. -/
theorem exec_carry_cases {i : Instr} {s t : State} {x : Nat} (hinv : Inv s) (hwf : i.wellFormed = true) (hx : x < 16)
    (h : exec i s = .next t) (ht : t.errcode = 0) :
    ((i = .configure ∨ i = .resetState) ∧ ∀ k, k < 64 → t.mem.read ((CellArray.slotCarry x).addr k) = some 0) ∨
    ((s.active.cont = true ∧ x < s.active.N ∧ Advances i x) ∧ s.cfgValid = true ∧ ∃ rs1 p, payloadReg i = some rs1 ∧
      Holds s rs1 p ∧ p.length = s.active.n - s.active.m ∧ CarryAdvanced s t p x) ∨
    (¬ (i = .configure ∨ i = .resetState) ∧ ¬ (s.active.cont = true ∧ x < s.active.N ∧ Advances i x) ∧ ∀ k, k < 64 →
      t.mem.read ((CellArray.slotCarry x).addr k) = s.mem.read ((CellArray.slotCarry x).addr k)) := by
  by_cases hi : i = .configure ∨ i = .resetState
  · exact .inl ⟨hi, fun k hk => exec_reset_carry (arr := .slotCarry x) hi h ht rfl hx hk⟩
  obtain ⟨hconf, hreset⟩ := not_or.1 hi
  by_cases hadvance : s.active.cont = true ∧ x < s.active.N ∧ Advances i x
  · obtain ⟨u, hvalid, hu, rfl⟩ | ⟨c, -, rfl⟩ := exec_next h
    · obtain ⟨hcont, hxN, hadv⟩ := hadvance
      have hnop : i ≠ .nop := by rintro rfl; simp [Advances, FillsCandidates] at hadv
      have hv := hvalid (needsConfig_iff.2 ⟨hnop, hconf, hreset⟩)
      obtain ⟨rs1, p, hpay, hp, hlen, hcarry⟩ := bodyRule_carryAdvanced (hinv.cfg_ok hv) hcont hxN hwf hadv hu
      refine .inr (.inl ⟨⟨hcont, hxN, hadv⟩, hv, rs1, p, hpay, hp, hlen, ?_⟩)
      rwa [CarryAdvanced, recordFault_mem, succeed_mem]
    · rw [recordFault_errcode, raiseErr_errcode] at ht
      exact absurd ht (errCode_ne_zero c)
  · refine .inr (.inr ⟨hi, hadvance, fun k hk => ?_⟩)
    refine exec_keeps_cell (arr := .slotCarry x) hinv hwf hconf hreset h hx hk fun w hw => hadvance ?_
    cases hw with
    | carry hcont hx _ _ hi => exact ⟨hcont, hx, hi⟩

/-- Settles O36: which of the three happens to the carry depends on the command and the configuration alone, and the
next carry of an advancing slot on its own carry and the payload. -/
theorem slotsAreIsolated : Obligations.SlotsAreIsolated := by
  intro i s s' t t' x hinv hinv' hwf hx hactive hvalid hpay hcarry h h' herr k hk
  by_cases ht : t.errcode = 0
  case neg =>
    rw [exec_failure_mem h ht, exec_failure_mem h' (herr ▸ ht)]
    exact hcarry k hk
  have hcases := exec_carry_cases hinv' hwf hx h' (herr.trans ht)
  rw [hactive] at hcases
  obtain ⟨hi, hzero⟩ | ⟨hadv, hv, rs1, p, hreg, hp, -, hnew⟩ | ⟨hi, hadv, hkeep⟩ := exec_carry_cases hinv hwf hx h ht
  · obtain ⟨-, hzero'⟩ | ⟨⟨-, -, hadv'⟩, -⟩ | ⟨hi', -⟩ := hcases
    · rw [hzero k hk, hzero' k hk]
    · obtain rfl | rfl := hi <;> simp [Advances, FillsCandidates] at hadv'
    · exact absurd hi hi'
  · obtain ⟨hi', -⟩ | ⟨-, -, rs1', p', hreg', hp', -, hnew'⟩ | ⟨-, hadv', -⟩ := hcases
    · obtain rfl | rfl := hi' <;> simp [Advances, FillsCandidates] at hadv
    · obtain rfl : rs1 = rs1' := Option.some.inj (hreg.symm.trans hreg')
      obtain rfl : p' = p := hp'.value.symm.trans ((hpay rs1 hreg).2.trans hp.value)
      rw [hnew k hk, hnew' k hk, scramble_congr p' hactive (hinv.cfg_ok hv).d_le hcarry, hactive, hcarry k hk]
    · exact absurd hadv hadv'
  · obtain ⟨hi', -⟩ | ⟨hadv', -⟩ | ⟨-, -, hkeep'⟩ := hcases
    · exact absurd hi' hi
    · exact absurd hadv' hadv
    · rw [hkeep k hk, hkeep' k hk, hcarry k hk]

/-- A carry whose cells are all 0. -/
theorem carry_eq_zeros {s : State} {x : Nat} (hd : s.active.d ≤ 64)
    (h : ∀ k, k < 64 → s.mem.read ((CellArray.slotCarry x).addr k) = some 0) : s.carry x = zeros (s.active.d - 1) := by
  refine List.eq_replicate_iff.2 ⟨loadCarry_length _ _ _, fun y hy => ?_⟩
  obtain ⟨j, hj, rfl⟩ := List.mem_map.1 hy
  rw [h j (by rw [List.mem_range] at hj; omega)]
  rfl

/-- A carry whose cells are as before. -/
theorem carry_congr {s t : State} {x : Nat} (hactive : t.active = s.active) (hd : s.active.d ≤ 64)
    (h : ∀ k, k < 64 → t.mem.read ((CellArray.slotCarry x).addr k) = s.mem.read ((CellArray.slotCarry x).addr k)) :
    t.carry x = s.carry x := by
  rw [State.carry, hactive]
  exact loadCarry_congr fun j hj => h j (by omega)

/-- After CANDIDATES or ENCODE in continuous mode every slot's carry is its next carry on the payload. -/
theorem exec_fill_carry {i : Instr} {s t : State} (hinv : Inv s) (hwf : i.wellFormed = true) (hcont : s.active.cont = true)
    (hfill : FillsCandidates i) (h : exec i s = .next t) (ht : t.errcode = 0) {x : Nat} (hx : x < s.active.N)
    (hx16 : x < 16) : ∃ rs1 p, payloadReg i = some rs1 ∧ Holds s rs1 p ∧ p.length = s.active.n - s.active.m ∧
      t.carry x = (s.scramble p x).2 := by
  have hconf : i ≠ .configure := by rintro rfl; simp [FillsCandidates] at hfill
  have hreset : i ≠ .resetState := by rintro rfl; simp [FillsCandidates] at hfill
  obtain ⟨hi, -⟩ | ⟨-, hv, rs1, p, hreg, hp, hlen, hnew⟩ | ⟨-, hadv, -⟩ := exec_carry_cases hinv hwf hx16 h ht
  · exact absurd hi (not_or.2 ⟨hconf, hreset⟩)
  · exact ⟨rs1, p, hreg, hp, hlen,
      hnew.carry_eq (hinv.cfg_ok hv) (exec_keeps_active hconf h) hcont hx hlen hp.valid⟩
  · exact absurd ⟨hcont, hx, .inr hfill⟩ hadv

/-- A command that fails keeps the configuration. -/
theorem exec_failure_active {i : Instr} {s t : State} (h : exec i s = .next t) (ht : t.errcode ≠ 0) :
    t.active = s.active := by
  obtain ⟨c, z, rfl⟩ := exec_failure h ht
  rw [recordFault_active, raiseErr_active]

/-- A command leaves the block configured. -/
theorem exec_keeps_cfgValid {i : Instr} {s t : State} (h : exec i s = .next t) (ht : t.errcode = 0)
    (hv : s.cfgValid = true) : t.cfgValid = true := by
  obtain ⟨-, hsuccess, hothers, -⟩ := configurationValidity
  by_cases hconf : i = .configure
  · exact hsuccess s t (hconf ▸ h) ht
  · exact (hothers i s t hconf h).trans hv

/-- Settles O37: CONFIGURE and RESET_STATE clear every carry, CANDIDATES and ENCODE advance every carry on the one payload
to the same word, and the other commands leave the carries. -/
theorem carriesStayEqualWithoutScramble : Obligations.CarriesStayEqualWithoutScramble := by
  intro i s t hinv hwf hv hd hscramble hequal h
  have hcfg := hinv.cfg_ok hv
  have hN := hcfg.N_le
  have hequal_of_kept (hactive : t.active = s.active) (hkeep : ∀ x, x < s.active.N → ∀ k, k < 64 →
      t.mem.read ((CellArray.slotCarry x).addr k) = s.mem.read ((CellArray.slotCarry x).addr k)) : CarriesEqual t := by
    intro x y hx hy
    rw [hactive] at hx hy
    rw [carry_congr hactive hcfg.d_le (hkeep x hx), carry_congr hactive hcfg.d_le (hkeep y hy), hequal x y hx hy]
  by_cases ht : t.errcode = 0
  case neg => exact hequal_of_kept (exec_failure_active h ht) fun x _ k _ => by rw [exec_failure_mem h ht]
  by_cases hi : i = .configure ∨ i = .resetState
  · have hcfg' := (exec_inv hinv hwf h).cfg_ok (exec_keeps_cfgValid h ht hv)
    have hzero (x : Nat) (hx : x < t.active.N) : t.carry x = zeros (t.active.d - 1) :=
      carry_eq_zeros hcfg'.d_le fun k hk =>
        exec_reset_carry (arr := .slotCarry x) hi h ht rfl (hx.trans_le hcfg'.N_le) hk
    exact fun x y hx hy => (hzero x hx).trans (hzero y hy).symm
  have hactive : t.active = s.active := exec_keeps_active (fun e => hi (.inl e)) h
  by_cases hfill : s.active.cont = true ∧ FillsCandidates i
  · obtain ⟨hcont, hfill⟩ := hfill
    intro x y hx hy
    rw [hactive] at hx hy
    obtain ⟨rs1, p, hreg, hp, hlen, hxnew⟩ := exec_fill_carry hinv hwf hcont hfill h ht hx (hx.trans_le hN)
    obtain ⟨rs1', p', hreg', hp', -, hynew⟩ := exec_fill_carry hinv hwf hcont hfill h ht hy (hy.trans_le hN)
    obtain rfl : rs1 = rs1' := Option.some.inj (hreg.symm.trans hreg')
    obtain rfl : p' = p := hp'.value.symm.trans hp.value
    rw [hxnew, hynew, scramble_carry_eq hcfg hcont hd hlen hx hy hp.valid]
  · refine hequal_of_kept hactive fun x hx k hk => ?_
    obtain ⟨hi', -⟩ | ⟨⟨hcont, -, hadv⟩, -⟩ | ⟨-, -, hkeep⟩ := exec_carry_cases hinv hwf (hx.trans_le hN) h ht
    · exact absurd hi' hi
    · obtain ⟨rd, rs1, rfl⟩ | hadv := hadv
      · exact absurd rfl (hscramble rd rs1 x)
      · exact absurd ⟨hcont, hadv⟩ hfill
    · exact hkeep k hk

end Sys2Proof.Machine
end

section
/-! PROOFS. The round trips: DECODE after SCRAMBLE or ENCODE gives the payload back (43_descrambler.md R147, R148). -/

namespace Sys2Proof.Machine

/-- Every carry is a word of symbols. -/
theorem Inv.carry_valid {s : State} (hinv : Inv s) (hv : s.cfgValid = true) {x : Nat} (hx : x < 16) :
    ValidWord s.active.q (s.carry x) := by
  have hd := (hinv.cfg_ok hv).d_le
  intro y hy
  obtain ⟨j, hj, rfl⟩ := List.mem_map.1 hy
  obtain hzero | ⟨-, -, -, hlt⟩ := hinv.carries x hx j (by rw [List.mem_range] at hj; omega)
  · rw [hzero]
    exact hinv.q_pos hv
  · exact hlt

/-- DECODE touches no carry. -/
theorem exec_decode_carry {s t : State} {rd rs1 x : Nat} (hinv : Inv s) (hv : s.cfgValid = true)
    (hwf : (Instr.decode rd rs1).wellFormed = true) (h : exec (.decode rd rs1) s = .next t) (hx : x < 16) :
    t.carry x = s.carry x := by
  refine carry_congr (exec_keeps_active (by simp) h) (hinv.cfg_ok hv).d_le fun k hk => ?_
  refine exec_keeps_cell (arr := .slotCarry x) hinv hwf (by simp) (by simp) h hx hk fun w hw => ?_
  cases hw with
  | carry _ _ _ _ hi => simp [Advances, FillsCandidates] at hi

/-- ENCODE touches no remainder. -/
theorem exec_encode_descRem {s t : State} {rd rs1 : Nat} (hinv : Inv s) (hv : s.cfgValid = true)
    (hwf : (Instr.encode rd rs1).wellFormed = true) (h : exec (.encode rd rs1) s = .next t) : t.descRem = s.descRem := by
  have hd := (hinv.cfg_ok hv).d_le
  rw [State.descRem, exec_keeps_active (by simp) h]
  refine loadCarry_congr fun k hk => ?_
  refine exec_keeps_cell (arr := .descRem) hinv hwf (by simp) (by simp) h (by decide) (by omega) fun w hw => ?_
  cases hw with
  | remainder _ _ _ hi => simp at hi

section
variable {t : State} {A : ActiveConfig} {rd rc slot : Nat} {p c : Word} (hA : t.active = A) (hinv : Inv t) (hrd : rd < 16)
  (hrc : rc < 16) (hv : t.cfgValid = true) (hunit : Nat.gcd (A.g.getD 0 0) A.q = 1) (hslot : slot < A.N)
  (hlen : p.length = A.n - A.m) (hp : ValidWord A.q p) (hclen : c.length = A.d - 1) (hc : ValidWord A.q c)
  (hword : t.regWord rc = some (scr A.q A.n A.d A.cont A.g (A.aug.getD slot [] ++ p) c).1)
  (hrem : A.cont = true → t.descRem = c.map (negq A.q))
include hA hinv hrd hrc hv hunit hslot hlen hp hclen hc hword hrem

/-- DECODE of a codeword that was made with the carry `c`, while the remainder is the negation of `c`. -/
theorem decode_of_codeword : ∃ u, exec (.decode rd rc) t = .next u ∧ u.errcode = 0 ∧ u.regWord rd = some p ∧
    u.active = A ∧ (A.cont = true →
      u.descRem = (scr A.q A.n A.d A.cont A.g (A.aug.getD slot [] ++ p) c).2.map (negq A.q)) ∧
    ∀ x, x < 16 → u.carry x = t.carry x := by
  subst hA
  have hcfg := hinv.cfg_ok hv
  have hd := hcfg.d_ge
  have hq := hcfg.q_ge
  obtain ⟨hulen, hu⟩ := augmented_spec hcfg hslot hlen hp
  have hdsc := dsc_scr (m := t.active.m) hq (by omega) hcfg.g_len hulen hclen (loadCarry_length t.mem .descRem _) hu hc
    hunit hrem
  rw [List.drop_left' (augWord_spec hcfg hslot).1] at hdsc
  have hholds : Holds t rc _ :=
    ⟨hrc, seenReg_of_regWord hword, scr_codeword_lt (by omega)⟩
  have hwlen := scr_codeword_length (q := t.active.q) (d := t.active.d) (cont := t.active.cont) (g := t.active.g) (t := c)
    hulen (by rw [hcfg.g_len]; omega)
  obtain ⟨u, hexec, -, hreg, hdesc, -, -, hrest⟩ := decodeWritesThePayload t rd rc _ _ _ hinv hrd hv hholds hwlen hunit
    hdsc.symm
  refine ⟨u, hexec, by rw [hrest], hreg, by rw [hrest], fun hcont => ?_, fun x hx => ?_⟩
  · rw [hdesc, if_pos hcont, if_pos hcont]
    rfl
  · exact exec_decode_carry hinv hv (by simp [Instr.wellFormed, isReg_iff, hrd, hrc]) hexec hx

end

section
variable {s : State} {rc rs1 slot : Nat} {p : Word} (hinv : Inv s) (hrc : rc < 16) (hv : s.cfgValid = true)
  (hslot : slot < s.active.N) (hp : Holds s rs1 p) (hlen : p.length = s.active.n - s.active.m)
include hinv hrc hv hslot hp hlen

/-- SCRAMBLE leaves its codeword, advances its own carry in continuous mode and touches no remainder. -/
theorem scramble_of_payload : ∃ t, exec (.scramble rc rs1 slot) s = .next t ∧ t.errcode = 0 ∧ Inv t ∧
    t.active = s.active ∧ t.cfgValid = true ∧ t.regWord rc = some (s.scramble p slot).1 ∧ t.descRem = s.descRem ∧
    (s.active.cont = true → t.carry slot = (s.scramble p slot).2) := by
  have hcfg := hinv.cfg_ok hv
  have hN := hcfg.N_le
  have hd := hcfg.d_le
  obtain ⟨t, hexec, -, hreg, hcarry, -, -, hrest⟩ := scrambleRunsOneSlot s rc rs1 slot p _ _ hinv hrc hv hp hslot hlen rfl
  have hwf : (Instr.scramble rc rs1 slot).wellFormed = true := by
    simp only [Instr.wellFormed, Bool.and_eq_true, isReg_iff, isImm8_iff]
    exact ⟨⟨hrc, hp.reg⟩, by omega⟩
  have hactive : t.active = s.active := by rw [hrest]
  refine ⟨t, hexec, by rw [hrest], exec_inv hinv hwf hexec, hactive, by rw [hrest]; exact hv, hreg, ?_, fun hcont => ?_⟩
  · rw [State.descRem, hactive]
    refine loadCarry_congr fun k hk => ?_
    refine exec_keeps_cell (arr := .descRem) hinv hwf (by simp) (by simp) hexec (by decide) (by omega) fun w hw => ?_
    cases hw with
    | remainder _ _ _ hi => simp at hi
  · rw [hcarry slot (hslot.trans_le hN), if_pos ⟨hcont, rfl⟩]
    rfl

end

/-- Settles O44: in block mode the remainder plays no part. -/
theorem blockRoundTrip : Obligations.BlockRoundTrip := by
  intro s rc rd rs1 slot p hinv hrc hrd hv hblock hunit hslot hp hlen
  have hN := (hinv.cfg_ok hv).N_le
  obtain ⟨t, hscramble, ht, hinv', hactive, hv', hreg, -, -⟩ := scramble_of_payload hinv hrc hv hslot hp hlen
  obtain ⟨u, hdecode, hu, hword, -⟩ := decode_of_codeword hactive hinv' hrd hrc hv' hunit hslot hlen hp.valid
    (loadCarry_length _ _ _) (hinv.carry_valid hv (hslot.trans_le hN)) hreg (by simp [hblock])
  exact ⟨t, u, hscramble, hdecode, ht, hu, hword⟩

/-- Settles O45: the remainder before is the negation of the carry SCRAMBLE used, and the remainder after that of the
carry it left. -/
theorem continuousFixedSlotRoundTrip : Obligations.ContinuousFixedSlotRoundTrip := by
  intro s rc rd rs1 slot p hinv hrc hrd hv hcont hunit hslot hp hlen hneg
  have hN := (hinv.cfg_ok hv).N_le
  obtain ⟨t, hscramble, -, hinv', hactive, hv', hreg, hrem, hcarry⟩ := scramble_of_payload hinv hrc hv hslot hp hlen
  obtain ⟨u, hdecode, hu, hword, huactive, hurem, hucarry⟩ := decode_of_codeword hactive hinv' hrd hrc hv' hunit hslot
    hlen hp.valid (loadCarry_length _ _ _) (hinv.carry_valid hv (hslot.trans_le hN)) hreg fun _ => hrem.trans hneg
  refine ⟨t, u, hscramble, hdecode, hu, hword, ?_⟩
  rw [hurem hcont, hucarry slot (hslot.trans_le hN), hcarry hcont, huactive]
  rfl

/-- ENCODE leaves the codeword of a slot, and in continuous mode every slot's next carry. -/
theorem encode_of_payload {s : State} {rc rs1 : Nat} {p : Word} (hinv : Inv s) (hrc : rc < 16) (hv : s.cfgValid = true)
    (hp : Holds s rs1 p) (hlen : p.length = s.active.n - s.active.m) :
    ∃ t slot, exec (.encode rc rs1) s = .next t ∧ t.errcode = 0 ∧ t.active = s.active ∧ t.cfgValid = true ∧
      slot < s.active.N ∧ t.regWord rc = some (s.scramble p slot).1 := by
  have hcfg := hinv.cfg_ok hv
  obtain ⟨hcomplete, hwin, hencode⟩ := bodyRule_encode (rd := rc) hcfg hp hlen
  have hpending := selPending_selected (hwin.trans_le hcfg.N_le)
  have hcand := candWord_withCandidates hcfg hlen hp.valid hwin
  have hcv := (scramble_codeword hcfg hwin hlen hp.valid).2
  refine ⟨_, (s.withCandidates p).winner.1, exec_of_body_ok hv hencode, rfl, rfl, hv, hwin, ?_⟩
  exact (regWord_committed (s := (s.withCandidates p).selected) hrc (hinv.fits hv hcv) hcfg.n_le
    (hpending ▸ hcand)).1

/-- Settles O46: whichever slot wins, its carry was the common one, and O37 keeps the carries equal. -/
theorem guidedContinuousRoundTrip : Obligations.GuidedContinuousRoundTrip := by
  intro s rc rd rs1 p hinv hrc hrd hv hcont hunit hp hlen hd hequal hneg
  have hcfg := hinv.cfg_ok hv
  have hN := hcfg.N_le
  have hwf : (Instr.encode rc rs1).wellFormed = true := by simp [Instr.wellFormed, isReg_iff, hrc, hp.reg]
  have hwf' : (Instr.decode rd rc).wellFormed = true := by simp [Instr.wellFormed, isReg_iff, hrd, hrc]
  obtain ⟨t, slot, hencode, ht, hactive, hv', hslot, hreg⟩ := encode_of_payload hinv hrc hv hp hlen
  have hinv' := exec_inv hinv hwf hencode
  have hequal' := carriesStayEqualWithoutScramble _ s t hinv hwf hv hd (by simp) hequal hencode
  obtain ⟨rs1', p', hpay, hp', -, hnew⟩ :=
    exec_fill_carry hinv hwf hcont (.inr ⟨_, _, rfl⟩) hencode ht hslot (hslot.trans_le hN)
  obtain rfl : rs1 = rs1' := Option.some.inj hpay
  obtain rfl : p' = p := hp'.value.symm.trans hp.value
  have hrem : t.descRem = (s.carry slot).map (negq s.active.q) := by
    rw [exec_encode_descRem hinv hv hwf hencode, hneg, hequal 0 slot hcfg.N_pos hslot]
  obtain ⟨u, hdecode, hu, hword, huactive, hurem, hucarry⟩ := decode_of_codeword hactive hinv' hrd hrc hv' hunit hslot
    hlen hp.valid (loadCarry_length _ _ _) (hinv.carry_valid hv (hslot.trans_le hN)) hreg fun _ => hrem
  have hequal'' : CarriesEqual u :=
    carriesStayEqualWithoutScramble _ t u hinv' hwf' hv' (hactive ▸ hd) (by simp) hequal' hdecode
  refine ⟨t, u, hencode, hdecode, hu, hword, hequal'', ?_⟩
  have hslotcarry : u.carry slot = (s.scramble p' slot).2 := (hucarry slot (hslot.trans_le hN)).trans hnew
  rw [hequal'' 0 slot (huactive ▸ hcfg.N_pos) (huactive ▸ hslot), hslotcarry, hurem hcont, huactive]
  rfl

end Sys2Proof.Machine
end

section
/-! PROOFS. The host's registers and cells at their addresses (10_state.md R27, R28, 20_memory.md R52). -/

namespace Sys2Proof.Machine

/-! ### The registers -/

/-- Settles O47: each bit is read off the concatenation. -/
theorem statusShowsTheFlags : Obligations.StatusShowsTheFlags := by
  intro s
  obtain ⟨hzero, hupper⟩ := status_reserved s
  have hbusy : s.busy = decide (s.phase = .busy) := rfl
  have hcont : s.contBit = (s.cfgValid && s.active.cont) := rfl
  refine ⟨?_, ?_, ?_, ?_, ?_, ?_, ?_, hzero, ?_, hupper⟩
  case refine_8 =>
    rw [status_eq_cast, BitVec.extractLsb'_cast]
    simp only [BitVec.extractLsb'_append_eq_of_le, Nat.reduceLeDiff, Nat.reduceSub]
    rw [BitVec.extractLsb'_append_eq_right]
  all_goals
    rw [status_eq_cast, BitVec.getLsbD_cast]
    simp only [BitVec.getLsbD_append]
    simp [hbusy, hcont]

theorem memRead_of_locOf {s : State} {a : Addr} {l : Loc} (h : locOf a.toNat = l) : s.memRead a = s.readLoc l := by
  rw [State.memRead, h]

theorem memWrite_of_locOf {s : State} {a : Addr} {l : Loc} (v : Word32) (h : locOf a.toNat = l) :
    s.memWrite a v = { s.writeLoc v l with epoch := s.epoch + 1 } := by
  rw [State.memWrite, h]

/-- CFG_MODE reads its one bit. -/
theorem readLoc_cfgMode (s : State) : (s.readLoc .cfgMode).getLsbD 0 = s.cfgContinuous ∧
    (s.readLoc .cfgMode).extractLsb' 1 31 = 0 := by
  rw [State.readLoc]
  exact ⟨by simp, extractLsb'_setWidth_above _ _ _⟩

/-- The two halves of a zero-extended concatenation. -/
theorem extractLsb'_setWidth_append {m n k : Nat} (x : BitVec m) (y : BitVec n) (h : m + n ≤ k) :
    ((x ++ y).setWidth k).extractLsb' 0 n = y ∧ ((x ++ y).setWidth k).extractLsb' n m = x := by
  constructor
  · ext i hi
    have : i < k := by omega
    simp [BitVec.getLsbD_append, *]
  · ext i hi
    have : n + i < k := by omega
    simp [BitVec.getLsbD_append, *]

/-- CFG_METHOD reads the alphabet below the metric selector. -/
theorem readLoc_cfgMethod (s : State) : (s.readLoc .cfgMethod).extractLsb' 0 16 = s.cfgAlphabet ∧
    (s.readLoc .cfgMethod).extractLsb' 16 8 = s.cfgMetricSel ∧ (s.readLoc .cfgMethod).extractLsb' 24 8 = 0 := by
  obtain ⟨halphabet, hmetric⟩ := extractLsb'_setWidth_append (k := 32) s.cfgMetricSel s.cfgAlphabet (by decide)
  exact ⟨halphabet, hmetric, extractLsb'_setWidth_above _ _ _⟩

/-- Settles O48: the address map names the register at each address. -/
theorem registersReadAtTheirAddresses : Obligations.RegistersReadAtTheirAddresses := by
  intro s
  obtain ⟨hmode, hmodeUpper⟩ := readLoc_cfgMode s
  obtain ⟨halphabet, hmetric, hmethodUpper⟩ := readLoc_cfgMethod s
  have hmodeAt : s.memRead 0x0054 = s.readLoc .cfgMode := memRead_of_locOf (by decide)
  have hmethodAt : s.memRead 0x0058 = s.readLoc .cfgMethod := memRead_of_locOf (by decide)
  rw [hmodeAt, hmethodAt]
  exact ⟨memRead_of_locOf (l := .id) (by decide), memRead_of_locOf (l := .status) (by decide),
    memRead_of_locOf (l := .cmd) (by decide), memRead_of_locOf (l := .errinfo) (by decide),
    memRead_of_locOf (l := .sel) (by decide), memRead_of_locOf (l := .selPending) (by decide),
    memRead_of_locOf (l := .metric) (by decide), memRead_of_locOf (l := .rds) (by decide),
    memRead_of_locOf (l := .wordcount) (by decide), memRead_of_locOf (l := .params) (by decide),
    memRead_of_locOf (l := .cfgField) (by decide), memRead_of_locOf (l := .cfgCwlen) (by decide),
    memRead_of_locOf (l := .cfgAuglen) (by decide), memRead_of_locOf (l := .cfgDivlen) (by decide),
    memRead_of_locOf (l := .cfgNaug) (by decide), hmode, hmodeUpper, halphabet, hmetric, hmethodUpper⟩

/-- Settles O53: the address map names the register at each address, and the low half of a word is its bits 15:0. -/
theorem registerWritesStoreTheirFields : Obligations.RegisterWritesStoreTheirFields := by
  intro s v
  have hlow : v.extractLsb' 0 16 = v.setWidth 16 := (BitVec.setWidth_eq_extractLsb' (by decide)).symm
  rw [hlow]
  exact ⟨memWrite_of_locOf (l := .cfgField) v (by decide), memWrite_of_locOf (l := .cfgCwlen) v (by decide),
    memWrite_of_locOf (l := .cfgAuglen) v (by decide), memWrite_of_locOf (l := .cfgDivlen) v (by decide),
    memWrite_of_locOf (l := .cfgNaug) v (by decide), memWrite_of_locOf (l := .cfgMode) v (by decide),
    memWrite_of_locOf (l := .cfgMethod) v (by decide), memWrite_of_locOf (l := .status) v (by decide),
    memWrite_of_locOf (l := .cmd) v (by decide)⟩

/-! ### The symbol cells -/

theorem hostCell_of_not_isCarry (s : State) {arr : CellArray} (k : Nat) (h : arr.isCarry = false) :
    s.hostCell arr k = (s.mem.read (arr.addr k)).getD (Config.unwrittenCell s.epoch (arr.addr k)) := by
  cases arr with
  | descRem | slotCarry x => cases h
  | _ => rfl

theorem hostCell_of_isCarry (s : State) {arr : CellArray} (k : Nat) (h : arr.isCarry = true) :
    s.hostCell arr k = if k ≥ s.active.d - 1 ∨ k = 63 then 0 else (s.mem.read (arr.addr k)).getD 0 := by
  cases arr with
  | descRem | slotCarry x => rfl
  | _ => cases h

/-- Settles O49: every cell of the map is found at its address, and the carries and the remainder are cut at `A.d - 1`
and at 63. -/
theorem symbolCellsReadAtTheirAddresses : Obligations.SymbolCellsReadAtTheirAddresses := by
  intro s x k b hx hk
  have hat {arr : CellArray} (hindex : arr.index < 16) :
      s.memRead (BitVec.ofNat 16 (arr.addr k)) = (s.hostCell arr k).setWidth 32 := memRead_of_locOf (locOf_addr hindex hk)
  have hplain {arr : CellArray} (hindex : arr.index < 16) (hcarry : arr.isCarry = false)
      (h : s.mem.read (arr.addr k) = some b) : s.memRead (BitVec.ofNat 16 (arr.addr k)) = b.setWidth 32 := by
    rw [hat hindex, hostCell_of_not_isCarry s k hcarry, h, Option.getD_some]
  have hcut {arr : CellArray} (hindex : arr.index < 16) (hcarry : arr.isCarry = true)
      (h : s.mem.read (arr.addr k) = some b) : s.memRead (BitVec.ofNat 16 (arr.addr k)) =
        if k < s.active.d - 1 ∧ k < 63 then b.setWidth 32 else 0 := by
    rw [hat hindex, hostCell_of_isCarry s k hcarry, h, Option.getD_some]
    by_cases hin : k < s.active.d - 1 ∧ k < 63
    · rw [if_neg (by omega), if_pos hin]
    · rw [if_pos (by omega), if_neg hin]
      rfl
  simp only [List.forall_mem_cons, List.not_mem_nil, false_imp_iff, implies_true, and_true]
  exact ⟨⟨hplain (by decide) rfl, hplain hx rfl, hplain hx rfl, hplain hx rfl⟩, hcut (by decide) rfl, hcut hx rfl⟩

/-- A host write to a cell of a writable array. -/
theorem memWrite_cell (s : State) (v : Word32) {arr : CellArray} {k : Nat} (hx : arr.index < 16) (hk : k < 64)
    (hwritable : arr.hostWritable = true) : s.memWrite (BitVec.ofNat 16 (arr.addr k)) v =
      { s with mem := s.mem.write (arr.addr k) (v.extractLsb' 0 8), epoch := s.epoch + 1 } := by
  rw [memWrite_of_locOf v (locOf_addr hx hk), State.writeLoc, if_pos hwritable, BitVec.setWidth_eq_extractLsb' (by decide)]

/-- Settles O50. -/
theorem symbolWritesStoreTheLowByte : Obligations.SymbolWritesStoreTheLowByte := by
  intro s x k v hx hk
  have hwrite {arr : CellArray} (hindex : arr.index < 16) (hwritable : arr.hostWritable = true) :
      (s.memWrite (BitVec.ofNat 16 (arr.addr k)) v).mem.read (arr.addr k) = some (v.extractLsb' 0 8) ∧
      (∀ a, a ≠ arr.addr k → (s.memWrite (BitVec.ofNat 16 (arr.addr k)) v).mem.read a = s.mem.read a) ∧
      s.memWrite (BitVec.ofNat 16 (arr.addr k)) v =
        { s with mem := (s.memWrite (BitVec.ofNat 16 (arr.addr k)) v).mem, epoch := s.epoch + 1 } := by
    rw [memWrite_cell s v hindex hk hwritable]
    exact ⟨Memory.read_write_same _ _ _, fun a ha => Memory.read_write_other _ _ ha, rfl⟩
  simp only [List.forall_mem_cons, List.not_mem_nil, false_imp_iff, implies_true, and_true]
  exact ⟨hwrite (by decide) rfl, hwrite hx rfl, hwrite hx rfl⟩

end Sys2Proof.Machine
end

section
/-! PROOFS. Whose turn it is, and what the turn does (20_memory.md R51, R55, R56, 70_reset_and_hazards.md R190, R203). -/

namespace Sys2Proof.Machine

/-! ### The turns -/

/-- While Idle the host's next operation is performed. -/
theorem step_of_idle {s : State} {op : HostOp} {rest : List HostOp} (hidle : s.phase = .idle) (hhost : s.host = op :: rest) :
    step s = hostStep op { s with host := rest } := by
  have hturn : s.turn = .host op { s with host := rest } := by
    rw [State.turn, hidle, hhost]
  rw [step, hturn]

/-- While Busy it is performed as long as the host has turns left. -/
theorem step_of_busy {s : State} {op : HostOp} {rest : List HostOp} {k : Nat} (hbusy : s.phase = .busy)
    (hturns : s.hostTurns = k + 1) (hhost : s.host = op :: rest) :
    step s = hostStep op { s with host := rest, hostTurns := k } := by
  have hturn : s.turn = .host op { s with host := rest, hostTurns := k } := by
    rw [State.turn, hbusy, hhost, hturns]
  rw [step, hturn]

/-- The host moves next. -/
theorem step_of_hostMoves {s : State} {op : HostOp} {rest : List HostOp} (hmoves : s.phase = .idle ∨ 0 < s.hostTurns)
    (hhost : s.host = op :: rest) : ∃ k, (s.phase = .busy → k = s.hostTurns - 1) ∧
      step s = hostStep op { s with host := rest, hostTurns := k } := by
  by_cases hidle : s.phase = .idle
  · exact ⟨s.hostTurns, fun hbusy => by simp [hidle] at hbusy, step_of_idle hidle hhost⟩
  · have hturns := hmoves.resolve_left hidle
    have hbusy : s.phase = .busy := by
      cases hphase : s.phase with
      | idle => exact absurd hphase hidle
      | busy => rfl
    exact ⟨s.hostTurns - 1, fun _ => rfl, step_of_busy hbusy (by omega) hhost⟩

/-- What the host reads is none of its own side of the interface. -/
theorem memRead_hostSide (s : State) (ops : List HostOp) (k : Nat) (reads : List HostRead) (a : Addr) :
    State.memRead { s with host := ops, hostTurns := k, reads := reads } a = s.memRead a := by
  unfold State.memRead
  cases locOf a.toNat with
  | cell arr j => cases arr <;> rfl
  | _ => rfl

theorem admitted_iff {width : Nat} {a : Addr} : admitted width a = true ↔ width = 32 ∧ a.toNat % 4 = 0 := by
  simp [admitted]

theorem hostStep_badAccess {width : Nat} {a : Addr} (s : State) (v : Word32) (h : ¬ (width = 32 ∧ a.toNat % 4 = 0)) :
    hostStep (.read width a) s = .refused .badAccess ∧ hostStep (.write width a v) s = .refused .badAccess := by
  have hrefused : admitted width a = false := Bool.eq_false_iff.2 (mt admitted_iff.1 h)
  exact ⟨if_pos hrefused, if_pos hrefused⟩

theorem hostStep_read {s : State} {a : Addr} (ha : a.toNat % 4 = 0) (h : s.phase = .idle ∨ a = statusAddr) :
    hostStep (.read 32 a) s = .next (s.recordRead a) := by
  have hadmitted : admitted 32 a = true := admitted_iff.2 ⟨rfl, ha⟩
  rw [hostStep, if_neg (by simp [hadmitted]), if_neg]
  rintro ⟨hbusy, hne⟩
  obtain hidle | rfl := h
  · simp [State.busy, hidle] at hbusy
  · exact hne rfl

theorem hostStep_write {s : State} {a : Addr} (v : Word32) (ha : a.toNat % 4 = 0) (h : s.phase = .idle) :
    hostStep (.write 32 a v) s = .next (s.memWrite a v) := by
  have hadmitted : admitted 32 a = true := admitted_iff.2 ⟨rfl, ha⟩
  rw [hostStep, if_neg (by simp [hadmitted]), if_neg (by simp [State.busy, h])]

theorem hostStep_write_whileBusy {s : State} {a : Addr} (v : Word32) (ha : a.toNat % 4 = 0) (h : s.phase = .busy) :
    hostStep (.write 32 a v) s = .refused .accessWhileBusy := by
  have hadmitted : admitted 32 a = true := admitted_iff.2 ⟨rfl, ha⟩
  rw [hostStep, if_neg (by simp [hadmitted]), if_pos (by simp [State.busy, h])]

theorem hostStep_read_whileBusy {s : State} {a : Addr} (ha : a.toNat % 4 = 0) (h : s.phase = .busy)
    (hne : a ≠ statusAddr) : hostStep (.read 32 a) s = .refused .accessWhileBusy := by
  have hadmitted : admitted 32 a = true := admitted_iff.2 ⟨rfl, ha⟩
  rw [hostStep, if_neg (by simp [hadmitted]), if_pos ⟨by simp [State.busy, h], hne⟩]

/-! ### Accesses -/

theorem step_read_of_idle {s : State} {a : Addr} {rest : List HostOp} (hidle : s.phase = .idle) (ha : a.toNat % 4 = 0)
    (hhost : s.host = .read 32 a :: rest) :
    step s = .next { s with host := rest, reads := ⟨a, s.memRead a⟩ :: s.reads } := by
  rw [← memRead_hostSide s rest s.hostTurns s.reads a]
  exact (step_of_idle hidle hhost).trans (hostStep_read ha (.inl hidle))

/-- Settles O54. -/
theorem idleHostAccessesTakeEffect : Obligations.IdleHostAccessesTakeEffect := by
  intro s a v rest hidle ha
  refine ⟨step_read_of_idle hidle ha, fun hhost => ?_, fun hhost => ⟨_, step_read_of_idle hidle ha hhost, ?_⟩⟩
  · rw [step_of_idle hidle hhost]
    exact hostStep_write v ha hidle
  · have hagain := memRead_hostSide s (.read 32 a :: rest) s.hostTurns (⟨a, s.memRead a⟩ :: s.reads) a
    have hsecond := step_read_of_idle (s := { s with
      host := .read 32 a :: rest, reads := ⟨a, s.memRead a⟩ :: s.reads }) hidle ha rfl
    rwa [hagain] at hsecond

/-- Settles O55. -/
theorem meaninglessAccessesAreRefused : Obligations.MeaninglessAccessesAreRefused := by
  intro s width a v rest hmoves
  refine ⟨fun hbad => ⟨fun hhost => ?_, fun hhost => ?_⟩, ?_⟩
  · obtain ⟨k, -, hstep⟩ := step_of_hostMoves hmoves hhost
    rw [hstep, (hostStep_badAccess _ v hbad).1]
  · obtain ⟨k, -, hstep⟩ := step_of_hostMoves hmoves hhost
    rw [hstep, (hostStep_badAccess _ v hbad).2]
  · rintro rfl ha hbusy
    refine ⟨fun hhost => ?_, fun hne hhost => ?_, ?_⟩
    · obtain ⟨k, -, hstep⟩ := step_of_hostMoves hmoves hhost
      exact hstep.trans (hostStep_write_whileBusy v ha hbusy)
    · obtain ⟨k, -, hstep⟩ := step_of_hostMoves hmoves hhost
      exact hstep.trans (hostStep_read_whileBusy ha hbusy hne)
    · rintro rfl hhost
      obtain ⟨k, hk, hstep⟩ := step_of_hostMoves hmoves hhost
      obtain rfl := hk hbusy
      refine ⟨(statusShowsTheFlags s).1.trans (decide_eq_true hbusy), ?_⟩
      exact hstep.trans (hostStep_read ha (.inr rfl))

/-- Settles O56. -/
theorem resetInputRestoresReset : Obligations.ResetInputRestoresReset := by
  intro s rest hhost hmoves
  obtain ⟨k, -, hstep⟩ := step_of_hostMoves hmoves hhost
  exact hstep

/-! ### The engine -/

/-- Settles O7: the bytes of a table word decode as the word, which is the one that stands in the latch. -/
theorem stepExecutesTheLatchedCommand : Obligations.StepExecutesTheLatchedCommand := by
  have hturn (s : State) (i : Instr) (h : EngineTurn s) (hi : decode s.cmdLatch = .ok i) : step s = exec i s := by
    rw [step_of_engineTurn h, engineStep, State.fetched, hi]
  refine ⟨hturn, fun s nbits w i h => hturn _ i ⟨rfl, .inl rfl⟩ ?_⟩
  change decode (BitVec.ofNat 32 (w % 2 ^ nbits)) = .ok i
  have hbytes := decodeBytes_wordBytes_append (BitVec.ofNat 32 (w % 2 ^ nbits)) []
  rw [List.append_nil] at hbytes
  rw [decodeTableWord, hbytes] at h
  cases hdecode : decode (BitVec.ofNat 32 (w % 2 ^ nbits)) with
  | ok j =>
    rw [hdecode] at h
    exact congrArg _ (Option.some.inj h)
  | error e =>
    rw [hdecode] at h
    cases h

/-- The engine's turn comes to Idle and leaves the host's list. -/
theorem step_engine_ends {s : State} (h : EngineTurn s) : ∃ t, step s = .next t ∧ t.phase = .idle ∧ t.host = s.host := by
  cases hdecode : decode s.cmdLatch with
  | ok i =>
    obtain ⟨t, hexec, -⟩ := everyCommandEnds i s
    obtain ⟨hidle, -, hhost, -⟩ := completedCommandsReturnToIdle i s t hexec
    exact ⟨t, (stepExecutesTheLatchedCommand.1 s i h hdecode).trans hexec, hidle, hhost⟩
  | error e => exact ⟨_, (step_of_engineTurn h).trans (engineStep_of_decode_error hdecode), rfl, rfl⟩

/-! ### The handshake -/

/-- A run is a first step and the run from there. -/
theorem run_succ_of_step {s t : State} (k : Nat) (h : step s = .next t) :
    Host.Core.run Sys2Proof.core (k + 1) s = Host.Core.run Sys2Proof.core k t := by
  have hcore : Sys2Proof.core.step s = .next t := h
  simp only [Host.Core.run, hcore]

/-- The polling loop ends: each turn of it while Busy uses up one of the host's turns, then the engine comes to Idle,
and the next turn of the loop reads that. -/
theorem wait_ends {k : Nat} {s : State} {rest : List HostOp} (hbusy : s.phase = .busy) (hturns : s.hostTurns = k)
    (hhost : s.host = .wait :: rest) :
    ∃ (j : Nat) (t : State), Host.Core.run Sys2Proof.core j s = .next t ∧ t.phase = .idle ∧ t.host = rest := by
  induction k generalizing s with
  | zero =>
    obtain ⟨t, hstep, hidle, hthost⟩ := step_engine_ends (s := s) ⟨hbusy, .inl hturns⟩
    have hready : t.status.getLsbD 0 = false := by rw [(statusShowsTheFlags t).1, hidle]; rfl
    have hlast : step t = .next (State.recordRead { t with host := rest } statusAddr) := by
      rw [step_of_idle hidle (hthost.trans hhost)]
      exact congrArg Host.Outcome.next (if_neg (Bool.eq_false_iff.1 hready))
    exact ⟨2, _, (run_succ_of_step 1 hstep).trans (run_succ_of_step 0 hlast), hidle, rfl⟩
  | succ k ih =>
    have hnotReady : s.status.getLsbD 0 = true := by rw [(statusShowsTheFlags s).1, hbusy]; rfl
    have hpoll : step s = .next { State.recordRead { s with host := rest, hostTurns := k } statusAddr with
        host := .wait :: rest } := by
      rw [step_of_busy hbusy hturns hhost]
      exact congrArg Host.Outcome.next (if_pos hnotReady)
    obtain ⟨j, t, hrun, ht⟩ := ih (s := { State.recordRead { s with host := rest, hostTurns := k } statusAddr with
      host := .wait :: rest }) hbusy rfl rfl
    exact ⟨j + 1, t, (run_succ_of_step j hpoll).trans hrun, ht⟩

/-- Settles O57: the write to CMD starts the command, and the polling loop ends. -/
theorem handshakeEnds : Obligations.HandshakeEnds := by
  intro s v rest hidle hhost
  have hstep : step s = .next (State.memWrite { s with host := .wait :: rest } 0x0008 v) := by
    rw [step_of_idle hidle hhost]
    exact hostStep_write v (by decide) hidle
  obtain ⟨j, t, hrun, ht⟩ := wait_ends (s := State.memWrite { s with host := .wait :: rest } 0x0008 v) (k := _) rfl rfl rfl
  exact ⟨j + 1, t, (run_succ_of_step j hstep).trans hrun, ht⟩

end Sys2Proof.Machine
end
